-- ==== Sys2Proof/Word.lean ====
section
/-! DEFINITION. The words the core moves (00_scope.md R13, R14): bit strings, bytes, 5-bit symbols. -/

namespace Sys2Proof

/-- A bit string (00_scope.md R13): finite, ordered, the first element the most significant and the earliest. -/
abbrev Bits := List Bool

/-- A byte of a text, 0 to 255 (40_bitcodec.md R90). -/
abbrev Byte := BitVec 8

/-- A word of the 5-bit symbol space as a number (30_encoding.md R60): bit 4 is the first bit of the symbol (00_scope.md R14). -/
abbrev Symbol := BitVec 5

end Sys2Proof
end

