-- ==== Sys2Proof/Machine/Operands.lean ====
section
/-! DEFINITION. Operand forms: the bit-string notation of 00_scope.md R13, the number conversions of 40_bitcodec.md R93 and
the grouping of 30_encoding.md R69. -/

namespace Sys2Proof.Machine

/-- `uint(s)` (00_scope.md R13): the first element has the highest weight. -/
def uint : Bits → Nat
  | [] => 0
  | b :: s => b.toNat * 2 ^ s.length + uint s

/-- `bits_N(v)` (00_scope.md R13): the string of length `N` whose `uint` is `v`, for `v < 2^N`. -/
def bitsN (N v : Nat) : Bits := (List.range N).map fun i => v.testBit (N - 1 - i)

/-- `slice(s, a, b)` (00_scope.md R13): positions `a` to `b − 1`. -/
def slice (s : Bits) (a b : Nat) : Bits := (s.drop a).take (b - a)

/-- `first(s, k)` (00_scope.md R13). -/
def first (s : Bits) (k : Nat) : Bits := slice s 0 k

/-- `last(s, k)` (00_scope.md R13). -/
def last (s : Bits) (k : Nat) : Bits := slice s (s.length - k) s.length

/-- `zeros(k)` (00_scope.md R13). -/
def zeros (k : Nat) : Bits := List.replicate k false

/-- The pieces of width `w` (30_encoding.md R69): piece `j` is `slice(s, w·j, w·j + w)`, `j < len/w`. -/
def groups (w : Nat) (s : Bits) : List Bits :=
  (List.range (s.length / w)).map fun j => slice s (w * j) (w * j + w)

/-- A fixed-width word as a bit string, most significant bit first (00_scope.md R14). -/
def toBits {w : Nat} (v : BitVec w) : Bits := bitsN w v.toNat

/-- The word of width `w` that a bit string of length `w` writes, most significant bit first (00_scope.md R14). -/
def ofBits (w : Nat) (s : Bits) : BitVec w := BitVec.ofNat w (uint s)

end Sys2Proof.Machine
end

