-- ==== Sys2Proof/Machine/Hamming.lean ====
section
/-! DEFINITION. The arithmetic of the Hamming code (44_hamming.md, 30_encoding.md R65, R66) on bit strings: `b` has length `n`
and position `i` of the block, counted from 1, is `b{i−1}` (00_scope.md R14). -/

namespace Sys2Proof.Machine

/-- The loop of ECC.RED (44_hamming.md R130). The fuel is never used up (log 12). -/
def redSearch (m : Nat) : Nat → Nat → Nat
  | 0, r => r
  | fuel + 1, r => if m + r + 1 ≤ 2 ^ r then r else redSearch m fuel (r + 1)

/-- `RED_BITS` of `m` (00_scope.md R8, 44_hamming.md R130): the smallest `r` with `m + r + 1 ≤ 2^r`. -/
def redBits (m : Nat) : Nat := redSearch m (m + 1) 0

/-- `BLOCK_BITS` of `m` (00_scope.md R8). -/
def blockBits (m : Nat) : Nat := m + redBits m

/-- `ispow2(i)` (00_scope.md R15). -/
def isPow2 (i : Nat) : Bool := 2 ^ i.log2 == i

/-- The positions 1 to `n` of a block (20_memory.md R40). -/
def positions (n : Nat) : List Nat := List.range' 1 n

/-- The parity positions `1, 2, 4, ..., 2^(r−1)` (20_memory.md R53). -/
def parityPositions (r : Nat) : List Nat := (List.range r).map (2 ^ ·)

/-- The data positions of a block of `n` bits in increasing order; the k-th is `dpos(k)` (44_hamming.md R131). -/
def dataPositions (n : Nat) : List Nat := (positions n).filter fun i => !isPow2 i

/-- The number of data positions below `i`: the index of the data bit at a data position `i` (30_encoding.md R65). -/
def dataIndex (i : Nat) : Nat := (dataPositions (i - 1)).length

/-- `Cov(p)` (30_encoding.md R66). -/
def cov (p n : Nat) : List Nat := (positions n).filter fun i => (i &&& p) != 0 && i != p

/-- `c[i]` (00_scope.md R14). -/
def bitAt (b : Bits) (i : Nat) : Bool := b.getD (i - 1) false

/-- XOR of a list of bits (00_scope.md R15). -/
def xorOf (l : List Bool) : Bool := l.foldr Bool.xor false

/-- The XOR of `c[i]` over `Cov(p)` (44_hamming.md R132, R134). -/
def covParity (b : Bits) (n p : Nat) : Bool := xorOf ((cov p n).map (bitAt b))

/-- Check `p` fails: the recomputed parity differs from the stored bit (44_hamming.md R134). -/
def checkFails (b : Bits) (n p : Nat) : Bool := covParity b n p != bitAt b p

/-- The block is valid: no check fails (44_hamming.md R133). -/
def validBlock (b : Bits) (n r : Nat) : Bool := (parityPositions r).all fun p => !checkFails b n p

/-- The syndrome `S` (44_hamming.md R135). -/
def syndrome (b : Bits) (n r : Nat) : Nat := ((parityPositions r).filter (checkFails b n)).sum

/-- The data bits at the data positions in order, the parity positions 0 (44_hamming.md R132, first loop). -/
def placeData (d : Bits) (n : Nat) : Bits :=
  (positions n).map fun i => if isPow2 i then false else d.getD (dataIndex i) false

/-- ECC.ENC on a chunk of `m` bits (44_hamming.md R132). Parity depends on data positions only (30_encoding.md R66). -/
def eccEncode (m : Nat) (d : Bits) : Bits :=
  let n := blockBits m
  let c := placeData d n
  (positions n).map fun i => if isPow2 i then covParity c n i else bitAt c i

/-- The block with position `i` inverted (44_hamming.md R136). -/
def flipAt (b : Bits) (i : Nat) : Bits := b.set (i - 1) (!bitAt b i)

/-- ECC.COR on a block of `BLOCK_BITS` bits (44_hamming.md R136): syndrome 0 and syndromes above `n` flip nothing. -/
def eccCorrect (m : Nat) (b : Bits) : Bits :=
  let n := blockBits m
  let S := syndrome b n (redBits m)
  if 1 ≤ S ∧ S ≤ n then flipAt b S else b

/-- ECC.EXT on a block of `BLOCK_BITS` bits (44_hamming.md R137). -/
def eccExtract (m : Nat) (b : Bits) : Bits := (dataPositions (blockBits m)).map (bitAt b)

/-- The bits at the parity positions in order (30_encoding.md R65, R67). -/
def parityBits (m : Nat) (b : Bits) : Bits := (parityPositions (redBits m)).map (bitAt b)

/-- The block whose parity positions hold the bits of `p` and whose data positions hold the bits of `d`, each in order
(30_encoding.md R65). -/
def assemble (n : Nat) (p d : Bits) : Bits :=
  (positions n).map fun i => if isPow2 i then p.getD i.log2 false else d.getD (dataIndex i) false

end Sys2Proof.Machine
end

