-- ==== Sys2Proof/Config.lean ====
section
/-! DEFINITION. What a realisation fixes: the types of the parameters (00_scope.md R7 to R12) and their reference values. -/

namespace Sys2Proof

/-- A legal value of `MSG_BITS`: a natural number at least 1; 0 is not representable (00_scope.md R7). -/
structure MsgBits where
  val : Nat
  pos : 0 < val
deriving DecidableEq, Repr

/-- `DELIM`, the frame delimiter `00001`, as a bit string (00_scope.md R10, 10_state.md R25). -/
def delim : Bits := [false, false, false, false, true]

/-- `DELIM` as a point of the symbol space (20_memory.md R52). -/
def delimSym : Symbol := 0b00001#5

/-- `WF_LC` (00_scope.md R9): (a) the table is injective, (b) `DELIM` is not in its image. -/
abbrev WfLc (t : Vector Symbol 16) : Prop :=
  (∀ i j : Fin 16, t[i] = t[j] → i = j) ∧ ∀ i : Fin 16, t[i] ≠ delimSym

/-- `LC_TABLE` (00_scope.md R9): the 16 symbols by index, with `WF_LC`. It is the content of `LC_ENC` (10_state.md R26). -/
structure LcTable where
  sym : Vector Symbol 16
  wf : WfLc sym
deriving DecidableEq, Repr

/-- `LC_TABLE_STD` (30_encoding.md R61). -/
def lcTableStd : LcTable where
  sym := #v[0b11110#5, 0b01001#5, 0b10100#5, 0b10101#5, 0b01010#5, 0b01011#5, 0b01110#5, 0b01111#5,
            0b10010#5, 0b10011#5, 0b10110#5, 0b10111#5, 0b11010#5, 0b11011#5, 0b11100#5, 0b11101#5]
  wf := by decide

/-- The named configurations of 00_scope.md R12. -/
def cfg1 : MsgBits := ⟨1, by decide⟩
/-- Hamming (7,4) (00_scope.md R12). -/
def cfg4 : MsgBits := ⟨4, by decide⟩
/-- Shortened Hamming (9,5) (00_scope.md R12). -/
def cfg5 : MsgBits := ⟨5, by decide⟩
/-- Shortened Hamming (14,10) (00_scope.md R12). -/
def cfg10 : MsgBits := ⟨10, by decide⟩
/-- Hamming (15,11) (00_scope.md R12). -/
def cfg11 : MsgBits := ⟨11, by decide⟩
/-- Shortened Hamming (25,20) (00_scope.md R12). -/
def cfg20 : MsgBits := ⟨20, by decide⟩

/-- The value of `MSG_BITS` in the model's state after reset: the source's own scenario value. DESIGN CHOICE, log 1. -/
def resetMsgBits : MsgBits := cfg5

end Sys2Proof
end

