-- ==== Sys2Proof/Syntax.lean ====
section
/-! DEFINITION. Instr: one constructor per row of spec/opcode_table.json. The operations (format CMD) carry the operands of
30_encoding.md R75; the symbols (SYM5) carry nothing, the row being one word; the block layouts (HBLOCK) carry the two
fields of their layout, the parity bits `p` and the data bits `d`, each first bit most significant (30_encoding.md R65, R67). -/

namespace Sys2Proof

/-- The rows of the opcode table (30_encoding.md R61, R62, R67, R75). -/
inductive Instr where
  /-- BC.TOBIN (R90): byte string `t`. -/
  | bcTobin (t : List Byte)
  /-- BC.FROMBIN (R91): bit string `b`. -/
  | bcFrombin (b : Bits)
  /-- PAD.MIN (R100): length `len` and `m`, which must be at least 1. -/
  | padMin (len m : Nat)
  /-- PAD.APPLY (R101): bit string `b` and padding count `k`. -/
  | padApply (b : Bits) (k : Nat)
  /-- LC.ENC (R110): bit string `b`. -/
  | lcEnc (b : Bits)
  /-- LC.DEC (R112): bit string `b`. -/
  | lcDec (b : Bits)
  /-- FR.FRAME (R120): bit string `b`. -/
  | frFrame (b : Bits)
  /-- FR.DEFRAME (R121): bit string `b`. -/
  | frDeframe (b : Bits)
  /-- ECC.RED (R130): `m`, which must be at least 1. -/
  | eccRed (m : Nat)
  /-- ECC.ENC (R132): chunk `d` of exactly MSG_BITS bits. -/
  | eccEnc (d : Bits)
  /-- ECC.COR (R136): block `b` of exactly BLOCK_BITS bits. -/
  | eccCor (b : Bits)
  /-- ECC.EXT (R137): block `b` of exactly BLOCK_BITS bits. -/
  | eccExt (b : Bits)
  /-- RSM.PUSH (R153): data `d` of exactly MSG_BITS bits. -/
  | rsmPush (d : Bits)
  /-- TX.CHUNK (R170): frame `f`. -/
  | txChunk (f : Bits)
  /-- TX.SEND (R172): text `t`. -/
  | txSend (t : List Byte)
  /-- RX.BLOCK (R173): block `x` of exactly BLOCK_BITS bits. -/
  | rxBlock (x : Bits)
  /-- SYS.RESET (R176): no operand. -/
  | sysReset
  /-- SYM.CTRL_00000 (R72): the symbol `00000`. -/
  | symCtrl00000
  /-- SYM.DELIM (R25): the symbol `00001`. -/
  | symDelim
  /-- SYM.CTRL_00010 (R72): the symbol `00010`. -/
  | symCtrl00010
  /-- SYM.CTRL_00011 (R72): the symbol `00011`. -/
  | symCtrl00011
  /-- SYM.CTRL_00100 (R72): the symbol `00100`. -/
  | symCtrl00100
  /-- SYM.CTRL_00101 (R72): the symbol `00101`. -/
  | symCtrl00101
  /-- SYM.CTRL_00110 (R72): the symbol `00110`. -/
  | symCtrl00110
  /-- SYM.CTRL_00111 (R72): the symbol `00111`. -/
  | symCtrl00111
  /-- SYM.CTRL_01000 (R72): the symbol `01000`. -/
  | symCtrl01000
  /-- SYM.DATA_1 (R61): the symbol `01001`. -/
  | symData1
  /-- SYM.DATA_4 (R61): the symbol `01010`. -/
  | symData4
  /-- SYM.DATA_5 (R61): the symbol `01011`. -/
  | symData5
  /-- SYM.CTRL_01100 (R72): the symbol `01100`. -/
  | symCtrl01100
  /-- SYM.CTRL_01101 (R72): the symbol `01101`. -/
  | symCtrl01101
  /-- SYM.DATA_6 (R61): the symbol `01110`. -/
  | symData6
  /-- SYM.DATA_7 (R61): the symbol `01111`. -/
  | symData7
  /-- SYM.CTRL_10000 (R72): the symbol `10000`. -/
  | symCtrl10000
  /-- SYM.CTRL_10001 (R72): the symbol `10001`. -/
  | symCtrl10001
  /-- SYM.DATA_8 (R61): the symbol `10010`. -/
  | symData8
  /-- SYM.DATA_9 (R61): the symbol `10011`. -/
  | symData9
  /-- SYM.DATA_2 (R61): the symbol `10100`. -/
  | symData2
  /-- SYM.DATA_3 (R61): the symbol `10101`. -/
  | symData3
  /-- SYM.DATA_A (R61): the symbol `10110`. -/
  | symDataA
  /-- SYM.DATA_B (R61): the symbol `10111`. -/
  | symDataB
  /-- SYM.CTRL_11000 (R72): the symbol `11000`. -/
  | symCtrl11000
  /-- SYM.CTRL_11001 (R72): the symbol `11001`. -/
  | symCtrl11001
  /-- SYM.DATA_C (R61): the symbol `11010`. -/
  | symDataC
  /-- SYM.DATA_D (R61): the symbol `11011`. -/
  | symDataD
  /-- SYM.DATA_E (R61): the symbol `11100`. -/
  | symDataE
  /-- SYM.DATA_F (R61): the symbol `11101`. -/
  | symDataF
  /-- SYM.DATA_0 (R61): the symbol `11110`. -/
  | symData0
  /-- SYM.CTRL_11111 (R72): the symbol `11111`. -/
  | symCtrl11111
  /-- BLOCK.CFG1 (R67): a block laid out `PPD`. -/
  | blockCfg1 (p : BitVec 2) (d : BitVec 1)
  /-- BLOCK.CFG4 (R67): a block laid out `PPDPDDD`. -/
  | blockCfg4 (p : BitVec 3) (d : BitVec 4)
  /-- BLOCK.CFG5 (R67): a block laid out `PPDPDDDPD`. -/
  | blockCfg5 (p : BitVec 4) (d : BitVec 5)
  /-- BLOCK.CFG10 (R67): a block laid out `PPDPDDDPDDDDDD`. -/
  | blockCfg10 (p : BitVec 4) (d : BitVec 10)
  /-- BLOCK.CFG11 (R67): a block laid out `PPDPDDDPDDDDDDD`. -/
  | blockCfg11 (p : BitVec 4) (d : BitVec 11)
  /-- BLOCK.CFG20 (R67): a block laid out `PPDPDDDPDDDDDDDPDDDDDDDDD`. -/
  | blockCfg20 (p : BitVec 5) (d : BitVec 20)
deriving DecidableEq, Repr

/-- The operands that stand at the `OP` input beside the selector (10_state.md R30, 30_encoding.md R75): a byte string, a bit
string, a natural number (`len` of PAD.MIN, `k` of PAD.APPLY) and a second one (`m` of PAD.MIN and ECC.RED). An operation
takes the ones its row names. DESIGN CHOICE, log 5. -/
structure Operands where
  text : List Byte := []
  bits : Bits := []
  num : Nat := 0
  msgBits : Nat := 0
deriving DecidableEq, Repr

/-- What the decoder reads: a selector with its operands (30_encoding.md R74), a word of the symbol space (R62), or a bit
string in block form, position 1 first (R65, 20_memory.md R45). -/
inductive Packet where
  | op (selector : BitVec 8) (operands : Operands)
  | symbol (w : Symbol)
  | block (b : Bits)
deriving DecidableEq, Repr

end Sys2Proof
end

