-- ==== Sys2Proof/Machine/State.lean ====
section
/-! DEFINITION. The state of the core and its interface (10_state.md R20 to R33), as plain data, and State.reset (R33). -/

namespace Sys2Proof.Machine

/-- `STATE` (10_state.md R21, 45_reassembler.md R150). -/
inductive RsmState where
  | awaitingStart
  | inFrame
deriving DecidableEq, Repr

/-- The values of `FAULT.CODE` (60_exceptions.md R180); the reserved codes 5 to 7 are never produced and have no constructor. -/
inductive FaultCode where
  | none
  | invariantViolation
  | framingDesync
  | invalidCodeword
  | bufferOverflow
deriving DecidableEq, Repr

/-- The values of `FAULT.UNIT` (60_exceptions.md R181). -/
inductive FaultUnit where
  | none
  | bc
  | pad
  | lc
  | fr
  | ecc
  | rsm
  | pipeline
deriving DecidableEq, Repr

/-- What `raise F(unit)` carries (00_scope.md R16, 60_exceptions.md R180, R181): a code and the unit whose test failed. -/
structure Raised where
  code : FaultCode
  unit : FaultUnit
deriving DecidableEq, Repr

/-- What reading a block by a named layout gives (30_encoding.md R67, 44_hamming.md R133): the configuration, the parity bits and the
data bits in order, and whether the block is valid. -/
structure BlockReading where
  msgBits : Nat
  redBits : Nat
  blockBits : Nat
  parity : Bits
  chunk : Bits
  valid : Bool
deriving DecidableEq, Repr

/-- The result value of an operation (30_encoding.md R75). `nothing` is a plain `Done`. -/
inductive Value where
  | nothing
  | bits (s : Bits)
  | text (t : List Byte)
  | nat (k : Nat)
  | list (bs : List Bits)
  | reading (l : BlockReading)
deriving DecidableEq, Repr

/-- `RESULT` (10_state.md R29 (a), R30). -/
inductive Result where
  | done (v : Value)
  | fault (code : FaultCode) (unit : FaultUnit)
  | refused
deriving DecidableEq, Repr

/-- One thing the host does at the interface (10_state.md R30, 60_exceptions.md R201): present a packet, pull the `RESET` input, or
drive `CFG.MSG_BITS` to a value. DESIGN CHOICE, log 3. -/
inductive Request where
  | present (p : Packet)
  | resetInput
  | configure (m : MsgBits)
deriving DecidableEq, Repr

/-- Reasons the machine stops with a fault: there is none. Every fault of the spec is a value at `RESULT` after which the host
presents the next operation (60_exceptions.md R185, R186), so it is a next state. Nobody raises one; safe. -/
inductive Fault where
deriving DecidableEq, Repr

/-- Reasons an instruction has no meaning in the model. -/
inductive Refusal where
  /-- An instruction of the table that has no meaning yet; only an arm of exec may raise it, and none does. Safe. -/
  | notModelled (mnemonic : String)
deriving DecidableEq, Repr

/-- The core's state (10_state.md R20), the parameters it was built with (92_eei_decisions.md "Open parameters"), and its interface
(10_state.md R30): what the host has presented and not yet seen performed, and the outputs of the operation just performed. -/
structure State where
  /-- `STATE` (R21). -/
  fsm : RsmState
  /-- `BUF` (R22). -/
  buf : Bits
  /-- `FAULT.CODE` (R23). -/
  faultCode : FaultCode
  /-- `FAULT.UNIT` (R23). -/
  faultUnit : FaultUnit
  /-- `MSG_BITS`, as sampled at reset (R24). -/
  msgBits : MsgBits
  /-- `CFG.MSG_BITS`, the input as the host drives it now (R24, R30). -/
  cfgMsgBits : MsgBits
  /-- `LC_ENC`, and by inversion `LC_DEC` (R26). No operation writes it. -/
  lcTable : LcTable
  /-- `BUF_CAP` (00_scope.md R11); `none` is infinity. No operation writes it. -/
  bufCap : Option Nat
  /-- What the host has presented and the core has not taken, oldest first. The model's own field (log 3). -/
  input : List Request
  /-- `RESULT` of the operation just performed (R29, R30). -/
  result : Result
  /-- `MSG_OUT`, present exactly when `MSG_VALID` (R29, R30). -/
  msgOut : Option (List Byte)
  /-- `TX_BLOCKS` (R30): the blocks the operation just performed handed to the transport. -/
  txBlocks : List Bits
deriving DecidableEq, Repr

/-- The machine right after reset (R33). `MSG_BITS`, the table, the capacity and the outputs: log 1, 2, 4. -/
def State.reset : State where
  fsm := .awaitingStart
  buf := []
  faultCode := .none
  faultUnit := .none
  msgBits := resetMsgBits
  cfgMsgBits := resetMsgBits
  lcTable := lcTableStd
  bufCap := none
  input := []
  result := .done .nothing
  msgOut := none
  txBlocks := []

end Sys2Proof.Machine
end

