-- ==== Sys2Proof/Machine/Ops.lean ====
section
/-! DEFINITION. The shared operations on the state: how an operation ends (00_scope.md R16, 10_state.md R29, R30), fault entry (60_exceptions.md
R185), and the one way out of the faulted condition (R188, 46_pipeline.md R176). -/

namespace Sys2Proof.Machine

/-- The end of an operation that writes none of STATE, BUF, FAULT: its `RESULT`, no `emit`, nothing at `TX_BLOCKS`. The outputs
belong to the operation just performed (10_state.md R29, 70_reset_and_hazards.md R219). -/
def State.finish (s : State) (r : Result) : State :=
  { s with result := r, msgOut := none, txBlocks := [] }

/-- `return v` (00_scope.md R16). -/
def State.returns (s : State) (v : Value) : State := s.finish (.done v)

/-- `refused`: the operation is not performed and nothing changes (60_exceptions.md R186, 30_encoding.md R76, glossary of 00_scope.md). -/
def State.refuse (s : State) : State := s.finish .refused

/-- Fault entry of a stateless operation (60_exceptions.md R185 (a)): `FAULT` is not latched. -/
def State.raiseStateless (s : State) (f : Raised) : State := s.finish (.fault f.code f.unit)

/-- Fault entry of a receive-path operation (60_exceptions.md R185 (b)): `FAULT` is latched, every write made before stands. -/
def State.raiseLatched (s : State) (f : Raised) : State :=
  { s.finish (.fault f.code f.unit) with faultCode := f.code, faultUnit := f.unit }

/-- The end of a completed frame (45_reassembler.md R155): `emit t`, `BUF <- ε`, `STATE <- AwaitingStart`, `return t`. -/
def State.emit (s : State) (t : List Byte) : State :=
  { s with fsm := .awaitingStart, buf := [], result := .done (.text t), msgOut := some t, txBlocks := [] }

/-- The end of TX.SEND (46_pipeline.md R172): the blocks are the result and stand at `TX_BLOCKS`. -/
def State.transmit (s : State) (bs : List Bits) : State :=
  { s with result := .done (.list bs), msgOut := none, txBlocks := bs }

/-- `BUF <- BUF ++ d` (45_reassembler.md R153, R156). -/
def State.append (s : State) (d : Bits) : State := { s with buf := s.buf ++ d }

/-- `STATE <- InFrame` (45_reassembler.md R154). -/
def State.enterFrame (s : State) : State := { s with fsm := .inFrame }

/-- The end of the operation just performed (60_exceptions.md R195, 70_reset_and_hazards.md R219): MSG_VALID is cleared, MSG_OUT is gone,
and nothing is handed to the transport any more; RESULT goes on naming the operation just performed (10_state.md R29, log 4). -/
def State.endOperation (s : State) : State := { s with msgOut := none, txBlocks := [] }

/-- The host drives `CFG.MSG_BITS` to `m` (10_state.md R24, R30): the input alone changes. -/
def State.drive (s : State) (m : MsgBits) : State := { s with cfgMsgBits := m }

/-- SYS.RESET (46_pipeline.md R176): the only way to leave the faulted condition (60_exceptions.md R188). -/
def State.restart (s : State) : State :=
  { s.finish (.done .nothing) with
    fsm := .awaitingStart, buf := [], faultCode := .none, faultUnit := .none, msgBits := s.cfgMsgBits }

/-- The end of a stateless operation that may fault: its value, or the fault. -/
def State.answer (s : State) : Except Raised Value → State
  | .ok v => s.returns v
  | .error f => s.raiseStateless f

end Sys2Proof.Machine
end

