-- ==== Sys2Proof/Machine/Blocks.lean ====
section
/-! DEFINITION. The rows of the block layouts (30_encoding.md R65, R67): a block of a named configuration read by its layout (log 7). -/

namespace Sys2Proof.Machine

/-- What a block of the configuration `MSG_BITS = m` with parity bits `p` and data bits `d` reads as by its layout. -/
def readBlock (m : Nat) (p d : Bits) : BlockReading :=
  let b := assemble (blockBits m) p d
  { msgBits := m, redBits := redBits m, blockBits := blockBits m, parity := parityBits m b, chunk := eccExtract m b,
    valid := validBlock b (blockBits m) (redBits m) }

/-- BLOCK.CFG1 (R67). -/
def execBlockCfg1 (p : BitVec 2) (d : BitVec 1) (s : State) : Host.Outcome State Fault Refusal :=
  .next (s.returns (.reading (readBlock 1 (toBits p) (toBits d))))

/-- BLOCK.CFG4 (R67). -/
def execBlockCfg4 (p : BitVec 3) (d : BitVec 4) (s : State) : Host.Outcome State Fault Refusal :=
  .next (s.returns (.reading (readBlock 4 (toBits p) (toBits d))))

/-- BLOCK.CFG5 (R67). -/
def execBlockCfg5 (p : BitVec 4) (d : BitVec 5) (s : State) : Host.Outcome State Fault Refusal :=
  .next (s.returns (.reading (readBlock 5 (toBits p) (toBits d))))

/-- BLOCK.CFG10 (R67). -/
def execBlockCfg10 (p : BitVec 4) (d : BitVec 10) (s : State) : Host.Outcome State Fault Refusal :=
  .next (s.returns (.reading (readBlock 10 (toBits p) (toBits d))))

/-- BLOCK.CFG11 (R67). -/
def execBlockCfg11 (p : BitVec 4) (d : BitVec 11) (s : State) : Host.Outcome State Fault Refusal :=
  .next (s.returns (.reading (readBlock 11 (toBits p) (toBits d))))

/-- BLOCK.CFG20 (R67). -/
def execBlockCfg20 (p : BitVec 5) (d : BitVec 20) (s : State) : Host.Outcome State Fault Refusal :=
  .next (s.returns (.reading (readBlock 20 (toBits p) (toBits d))))

end Sys2Proof.Machine
end

