-- ==== Sys2Proof/Machine/Ecc.lean ====
section
/-! DEFINITION. Unit ECC (44_hamming.md): ECC.RED, ECC.ENC, ECC.COR, ECC.EXT. An operand of a length its type forbids is not
representable and is refused (20_memory.md R47, R48, log 10). -/

namespace Sys2Proof.Machine

/-- ECC.RED (44_hamming.md R130). `m = 0` is not representable and is refused (log 10, log 11). -/
def execEccRed (m : Nat) (s : State) : Host.Outcome State Fault Refusal :=
  if m = 0 then .next s.refuse else .next (s.returns (.nat (redBits m)))

/-- ECC.ENC (44_hamming.md R132). -/
def execEccEnc (d : Bits) (s : State) : Host.Outcome State Fault Refusal :=
  if d.length ≠ s.msgBits.val then .next s.refuse
  else .next (s.returns (.bits (eccEncode s.msgBits.val d)))

/-- ECC.COR (44_hamming.md R136). -/
def execEccCor (b : Bits) (s : State) : Host.Outcome State Fault Refusal :=
  if b.length ≠ blockBits s.msgBits.val then .next s.refuse
  else .next (s.returns (.bits (eccCorrect s.msgBits.val b)))

/-- ECC.EXT (44_hamming.md R137). -/
def execEccExt (b : Bits) (s : State) : Host.Outcome State Fault Refusal :=
  if b.length ≠ blockBits s.msgBits.val then .next s.refuse
  else .next (s.returns (.bits (eccExtract s.msgBits.val b)))

end Sys2Proof.Machine
end

