-- ==== Sys2Proof/Machine/Padder.lean ====
section
/-! DEFINITION. Unit PAD (41_padder.md): PAD.MIN, PAD.APPLY. -/

namespace Sys2Proof.Machine

/-- The loop of PAD.MIN (41_padder.md R100). The fuel is never used up for `m ≥ 1` (R102, log 12). -/
def padSearch (m : Nat) : Nat → Nat → Nat
  | 0, L => L
  | fuel + 1, L => if ((L / 4) * 5 + 10) % m = 0 then L else padSearch m fuel (L + 8)

/-- PAD.MIN (41_padder.md R100): the search starts at `8 · ceil(len/8)`. -/
def minPadBits (len m : Nat) : Nat := padSearch m m (8 * ((len + 7) / 8)) - len

/-- PAD.APPLY (41_padder.md R101): the padding stands in front (20_memory.md R44). -/
def padFront (s : Bits) (k : Nat) : Bits := zeros k ++ s

/-- PAD.MIN (41_padder.md R100). `m = 0` is not representable and is refused (log 10, log 11). -/
def execPadMin (len m : Nat) (s : State) : Host.Outcome State Fault Refusal :=
  if m = 0 then .next s.refuse else .next (s.returns (.nat (minPadBits len m)))

/-- PAD.APPLY (41_padder.md R101). -/
def execPadApply (b : Bits) (k : Nat) (s : State) : Host.Outcome State Fault Refusal :=
  .next (s.returns (.bits (padFront b k)))

end Sys2Proof.Machine
end

