-- ==== Sys2Proof/Machine/BitCodec.lean ====
section
/-! DEFINITION. Unit BC (40_bitcodec.md): BC.TOBIN, BC.FROMBIN. -/

namespace Sys2Proof.Machine

/-- BC.TOBIN on a byte string (40_bitcodec.md R90). -/
def toBinary (t : List Byte) : Bits := t.flatMap fun v => bitsN 8 v.toNat

/-- BC.FROMBIN on a bit string (40_bitcodec.md R91): zero bytes are dropped wherever they stand. -/
def fromBinary (s : Bits) : Except Raised (List Byte) :=
  if s.length % 8 ≠ 0 then .error ⟨.invariantViolation, .bc⟩
  else .ok (((groups 8 s).map (ofBits 8)).filter (· ≠ 0#8))

/-- BC.TOBIN (40_bitcodec.md R90). -/
def execBcTobin (t : List Byte) (s : State) : Host.Outcome State Fault Refusal :=
  .next (s.returns (.bits (toBinary t)))

/-- BC.FROMBIN (40_bitcodec.md R91). -/
def execBcFrombin (b : Bits) (s : State) : Host.Outcome State Fault Refusal :=
  .next (s.answer ((fromBinary b).map .text))

end Sys2Proof.Machine
end

