-- ==== Sys2Proof/Machine/Framer.lean ====
section
/-! DEFINITION. Unit FR (43_framer.md): FR.FRAME, FR.DEFRAME. -/

namespace Sys2Proof.Machine

/-- FR.FRAME on a bit string (43_framer.md R120). -/
def frame (s : Bits) : Bits := delim ++ s ++ delim

/-- FR.DEFRAME on a bit string (43_framer.md R121). -/
def deframe (s : Bits) : Except Raised Bits :=
  if s.length < 10 then .error ⟨.framingDesync, .fr⟩
  else if first s 5 ≠ delim then .error ⟨.framingDesync, .fr⟩
  else if last s 5 ≠ delim then .error ⟨.framingDesync, .fr⟩
  else .ok (slice s 5 (s.length - 5))

/-- FR.FRAME (43_framer.md R120). -/
def execFrFrame (b : Bits) (s : State) : Host.Outcome State Fault Refusal :=
  .next (s.returns (.bits (frame b)))

/-- FR.DEFRAME (43_framer.md R121). -/
def execFrDeframe (b : Bits) (s : State) : Host.Outcome State Fault Refusal :=
  .next (s.answer ((deframe b).map .bits))

end Sys2Proof.Machine
end

