-- ==== Sys2Proof/Machine/LineCoder.lean ====
section
/-! DEFINITION. Unit LC (42_linecoder.md): the two tables, LC.ENC, LC.DEC. -/

namespace Sys2Proof.Machine

/-- `LC_ENC[i]` (10_state.md R26, 42_linecoder.md R111); the index of a 4-bit group is below 16. -/
def lcEncEntry (t : LcTable) (i : Nat) : Symbol := if h : i < 16 then t.sym[i] else 0#5

/-- `LC_DEC[w]` (10_state.md R26): the index whose symbol is `w`, or `none` for an entry with `valid = 0`. -/
def lcDecEntry (t : LcTable) (w : Symbol) : Option Nat := (List.range 16).find? fun i => lcEncEntry t i == w

/-- LC.ENC on a bit string (42_linecoder.md R110). -/
def lineEncode (t : LcTable) (s : Bits) : Except Raised Bits :=
  if s.length % 4 ≠ 0 then .error ⟨.invariantViolation, .lc⟩
  else .ok ((groups 4 s).flatMap fun g => toBits (lcEncEntry t (uint g)))

/-- The look-ups of LC.DEC over the 5-bit pieces in order (42_linecoder.md R112): the first piece that is no data symbol faults. -/
def decodePieces (t : LcTable) : List Bits → Except Raised Bits
  | [] => .ok []
  | p :: ps =>
    match lcDecEntry t (ofBits 5 p) with
    | none => .error ⟨.invalidCodeword, .lc⟩
    | some i =>
      match decodePieces t ps with
      | .error f => .error f
      | .ok o => .ok (bitsN 4 i ++ o)

/-- LC.DEC on a bit string (42_linecoder.md R112): the length is tested first. -/
def lineDecode (t : LcTable) (s : Bits) : Except Raised Bits :=
  if s.length % 5 ≠ 0 then .error ⟨.invariantViolation, .lc⟩ else decodePieces t (groups 5 s)

/-- LC.ENC (42_linecoder.md R110). -/
def execLcEnc (b : Bits) (s : State) : Host.Outcome State Fault Refusal :=
  .next (s.answer ((lineEncode s.lcTable b).map .bits))

/-- LC.DEC (42_linecoder.md R112). -/
def execLcDec (b : Bits) (s : State) : Host.Outcome State Fault Refusal :=
  .next (s.answer ((lineDecode s.lcTable b).map .bits))

end Sys2Proof.Machine
end

