-- ==== Sys2Proof/Machine/Reassembler.lean ====
section
/-! DEFINITION. Unit RSM (45_reassembler.md): the reassembler's step, split as R154 and R155 split it, and RSM.PUSH. -/

namespace Sys2Proof.Machine

/-- The completion path (45_reassembler.md R155): FR.DEFRAME, LC.DEC, BC.FROMBIN of the whole buffer. -/
def completion (t : LcTable) (buf : Bits) : Except Raised (List Byte) :=
  match deframe buf with
  | .error f => .error f
  | .ok p =>
    match lineDecode t p with
    | .error f => .error f
    | .ok q => fromBinary q

/-- `len(BUF) + k > BUF_CAP` (45_reassembler.md R153, 00_scope.md R11). -/
def State.overflows (s : State) (k : Nat) : Bool :=
  match s.bufCap with
  | none => false
  | some cap => s.buf.length + k > cap

/-- The end test and the completion (45_reassembler.md R155). A fault of the completion path is latched; BUF and STATE stay. -/
def State.endTest (s : State) : State :=
  if s.fsm = .inFrame ∧ 10 ≤ s.buf.length ∧ last s.buf 5 = delim then
    match completion s.lcTable s.buf with
    | .ok t => s.emit t
    | .error f => s.raiseLatched f
  else s.returns .nothing

/-- The start test (45_reassembler.md R154), then the end test in the same operation (R157). -/
def State.startTest (s : State) : State :=
  if s.fsm = .awaitingStart ∧ 5 ≤ s.buf.length then
    if first s.buf 5 ≠ delim then s.raiseLatched ⟨.framingDesync, .rsm⟩
    else s.enterFrame.endTest
  else s.endTest

/-- The reassembler's step on the data of one block (45_reassembler.md R153), tests in the order of 60_exceptions.md R187. An operand
of another length than MSG_BITS is not representable and is refused (log 10). -/
def State.push (s : State) (d : Bits) : State :=
  if s.faultCode ≠ .none then s.refuse
  else if d.length ≠ s.msgBits.val then s.refuse
  else if s.overflows d.length then s.raiseLatched ⟨.bufferOverflow, .rsm⟩
  else (s.append d).startTest

/-- RSM.PUSH (45_reassembler.md R153). -/
def execRsmPush (d : Bits) (s : State) : Host.Outcome State Fault Refusal :=
  .next (s.push d)

end Sys2Proof.Machine
end

