-- ==== Sys2Proof/Machine/Pipeline.lean ====
section
/-! DEFINITION. The pipeline and system operations (46_pipeline.md): TX.CHUNK, TX.SEND, RX.BLOCK, SYS.RESET. -/

namespace Sys2Proof.Machine

/-- TX.CHUNK on a bit string (46_pipeline.md R170). -/
def chunk (m : Nat) (f : Bits) : Except Raised (List Bits) :=
  if f.length % m ≠ 0 then .error ⟨.invariantViolation, .pipeline⟩ else .ok (groups m f)

/-- The frame of a text: the sender pipeline up to the framer (46_pipeline.md R172). -/
def sendFrame (t : LcTable) (m : Nat) (text : List Byte) : Except Raised Bits :=
  let b := toBinary text
  match lineEncode t (padFront b (minPadBits b.length m)) with
  | .error f => .error f
  | .ok e => .ok (frame e)

/-- The sender pipeline (46_pipeline.md R172). -/
def sendBlocks (t : LcTable) (m : Nat) (text : List Byte) : Except Raised (List Bits) :=
  match sendFrame t m text with
  | .error f => .error f
  | .ok fr =>
    match chunk m fr with
    | .error f => .error f
    | .ok cs => .ok (cs.map (eccEncode m))

/-- TX.CHUNK (46_pipeline.md R170). -/
def execTxChunk (f : Bits) (s : State) : Host.Outcome State Fault Refusal :=
  .next (s.answer ((chunk s.msgBits.val f).map .list))

/-- TX.SEND (46_pipeline.md R172). -/
def execTxSend (t : List Byte) (s : State) : Host.Outcome State Fault Refusal :=
  match sendBlocks s.lcTable s.msgBits.val t with
  | .ok bs => .next (s.transmit bs)
  | .error f => .next (s.raiseStateless f)

/-- RX.BLOCK (46_pipeline.md R173): ECC.COR, ECC.EXT, RSM.PUSH in one operation. A block of another length than BLOCK_BITS is not
representable and is refused (log 10). -/
def execRxBlock (x : Bits) (s : State) : Host.Outcome State Fault Refusal :=
  if s.faultCode ≠ .none then .next s.refuse
  else if x.length ≠ blockBits s.msgBits.val then .next s.refuse
  else .next (s.push (eccExtract s.msgBits.val (eccCorrect s.msgBits.val x)))

/-- SYS.RESET (46_pipeline.md R176). -/
def execSysReset (s : State) : Host.Outcome State Fault Refusal :=
  .next s.restart

end Sys2Proof.Machine
end

