-- ==== Sys2Proof/Machine/Symbols.lean ====
section
/-! DEFINITION. The rows of the symbol space (30_encoding.md R61, R62, R72): the look-up of one symbol in LC_DEC, which is LC.DEC of
that symbol alone (42_linecoder.md R112, log 6). -/

namespace Sys2Proof.Machine

/-- The look-up of one symbol (10_state.md R26): the 4-bit group of a data symbol, or the fault of LC.DEC for any other (30_encoding.md R72). -/
def State.lookUp (s : State) (w : Symbol) : State :=
  match lcDecEntry s.lcTable w with
  | some i => s.returns (.bits (bitsN 4 i))
  | none => s.raiseStateless ⟨.invalidCodeword, .lc⟩

/-- SYM.CTRL_00000 (R72). -/
def execSymCtrl00000 (s : State) : Host.Outcome State Fault Refusal := .next (s.lookUp 0b00000#5)

/-- SYM.DELIM (R25). -/
def execSymDelim (s : State) : Host.Outcome State Fault Refusal := .next (s.lookUp 0b00001#5)

/-- SYM.CTRL_00010 (R72). -/
def execSymCtrl00010 (s : State) : Host.Outcome State Fault Refusal := .next (s.lookUp 0b00010#5)

/-- SYM.CTRL_00011 (R72). -/
def execSymCtrl00011 (s : State) : Host.Outcome State Fault Refusal := .next (s.lookUp 0b00011#5)

/-- SYM.CTRL_00100 (R72). -/
def execSymCtrl00100 (s : State) : Host.Outcome State Fault Refusal := .next (s.lookUp 0b00100#5)

/-- SYM.CTRL_00101 (R72). -/
def execSymCtrl00101 (s : State) : Host.Outcome State Fault Refusal := .next (s.lookUp 0b00101#5)

/-- SYM.CTRL_00110 (R72). -/
def execSymCtrl00110 (s : State) : Host.Outcome State Fault Refusal := .next (s.lookUp 0b00110#5)

/-- SYM.CTRL_00111 (R72). -/
def execSymCtrl00111 (s : State) : Host.Outcome State Fault Refusal := .next (s.lookUp 0b00111#5)

/-- SYM.CTRL_01000 (R72). -/
def execSymCtrl01000 (s : State) : Host.Outcome State Fault Refusal := .next (s.lookUp 0b01000#5)

/-- SYM.DATA_1 (R61). -/
def execSymData1 (s : State) : Host.Outcome State Fault Refusal := .next (s.lookUp 0b01001#5)

/-- SYM.DATA_4 (R61). -/
def execSymData4 (s : State) : Host.Outcome State Fault Refusal := .next (s.lookUp 0b01010#5)

/-- SYM.DATA_5 (R61). -/
def execSymData5 (s : State) : Host.Outcome State Fault Refusal := .next (s.lookUp 0b01011#5)

/-- SYM.CTRL_01100 (R72). -/
def execSymCtrl01100 (s : State) : Host.Outcome State Fault Refusal := .next (s.lookUp 0b01100#5)

/-- SYM.CTRL_01101 (R72). -/
def execSymCtrl01101 (s : State) : Host.Outcome State Fault Refusal := .next (s.lookUp 0b01101#5)

/-- SYM.DATA_6 (R61). -/
def execSymData6 (s : State) : Host.Outcome State Fault Refusal := .next (s.lookUp 0b01110#5)

/-- SYM.DATA_7 (R61). -/
def execSymData7 (s : State) : Host.Outcome State Fault Refusal := .next (s.lookUp 0b01111#5)

/-- SYM.CTRL_10000 (R72). -/
def execSymCtrl10000 (s : State) : Host.Outcome State Fault Refusal := .next (s.lookUp 0b10000#5)

/-- SYM.CTRL_10001 (R72). -/
def execSymCtrl10001 (s : State) : Host.Outcome State Fault Refusal := .next (s.lookUp 0b10001#5)

/-- SYM.DATA_8 (R61). -/
def execSymData8 (s : State) : Host.Outcome State Fault Refusal := .next (s.lookUp 0b10010#5)

/-- SYM.DATA_9 (R61). -/
def execSymData9 (s : State) : Host.Outcome State Fault Refusal := .next (s.lookUp 0b10011#5)

/-- SYM.DATA_2 (R61). -/
def execSymData2 (s : State) : Host.Outcome State Fault Refusal := .next (s.lookUp 0b10100#5)

/-- SYM.DATA_3 (R61). -/
def execSymData3 (s : State) : Host.Outcome State Fault Refusal := .next (s.lookUp 0b10101#5)

/-- SYM.DATA_A (R61). -/
def execSymDataA (s : State) : Host.Outcome State Fault Refusal := .next (s.lookUp 0b10110#5)

/-- SYM.DATA_B (R61). -/
def execSymDataB (s : State) : Host.Outcome State Fault Refusal := .next (s.lookUp 0b10111#5)

/-- SYM.CTRL_11000 (R72). -/
def execSymCtrl11000 (s : State) : Host.Outcome State Fault Refusal := .next (s.lookUp 0b11000#5)

/-- SYM.CTRL_11001 (R72). -/
def execSymCtrl11001 (s : State) : Host.Outcome State Fault Refusal := .next (s.lookUp 0b11001#5)

/-- SYM.DATA_C (R61). -/
def execSymDataC (s : State) : Host.Outcome State Fault Refusal := .next (s.lookUp 0b11010#5)

/-- SYM.DATA_D (R61). -/
def execSymDataD (s : State) : Host.Outcome State Fault Refusal := .next (s.lookUp 0b11011#5)

/-- SYM.DATA_E (R61). -/
def execSymDataE (s : State) : Host.Outcome State Fault Refusal := .next (s.lookUp 0b11100#5)

/-- SYM.DATA_F (R61). -/
def execSymDataF (s : State) : Host.Outcome State Fault Refusal := .next (s.lookUp 0b11101#5)

/-- SYM.DATA_0 (R61). -/
def execSymData0 (s : State) : Host.Outcome State Fault Refusal := .next (s.lookUp 0b11110#5)

/-- SYM.CTRL_11111 (R72). -/
def execSymCtrl11111 (s : State) : Host.Outcome State Fault Refusal := .next (s.lookUp 0b11111#5)

end Sys2Proof.Machine
end

