-- ==== Sys2Proof/Machine/Dispatch.lean ====
section
/-! DEFINITION. One arm per constructor of Instr. -/

namespace Sys2Proof.Machine

def exec (i : Instr) (s : State) : Host.Outcome State Fault Refusal :=
  match i with
  | .bcTobin t => Sys2Proof.Machine.execBcTobin t s
  | .bcFrombin b => Sys2Proof.Machine.execBcFrombin b s
  | .padMin len m => Sys2Proof.Machine.execPadMin len m s
  | .padApply b k => Sys2Proof.Machine.execPadApply b k s
  | .lcEnc b => Sys2Proof.Machine.execLcEnc b s
  | .lcDec b => Sys2Proof.Machine.execLcDec b s
  | .frFrame b => Sys2Proof.Machine.execFrFrame b s
  | .frDeframe b => Sys2Proof.Machine.execFrDeframe b s
  | .eccRed m => Sys2Proof.Machine.execEccRed m s
  | .eccEnc d => Sys2Proof.Machine.execEccEnc d s
  | .eccCor b => Sys2Proof.Machine.execEccCor b s
  | .eccExt b => Sys2Proof.Machine.execEccExt b s
  | .rsmPush d => Sys2Proof.Machine.execRsmPush d s
  | .txChunk f => Sys2Proof.Machine.execTxChunk f s
  | .txSend t => Sys2Proof.Machine.execTxSend t s
  | .rxBlock x => Sys2Proof.Machine.execRxBlock x s
  | .sysReset => Sys2Proof.Machine.execSysReset s
  | .symCtrl00000 => Sys2Proof.Machine.execSymCtrl00000 s
  | .symDelim => Sys2Proof.Machine.execSymDelim s
  | .symCtrl00010 => Sys2Proof.Machine.execSymCtrl00010 s
  | .symCtrl00011 => Sys2Proof.Machine.execSymCtrl00011 s
  | .symCtrl00100 => Sys2Proof.Machine.execSymCtrl00100 s
  | .symCtrl00101 => Sys2Proof.Machine.execSymCtrl00101 s
  | .symCtrl00110 => Sys2Proof.Machine.execSymCtrl00110 s
  | .symCtrl00111 => Sys2Proof.Machine.execSymCtrl00111 s
  | .symCtrl01000 => Sys2Proof.Machine.execSymCtrl01000 s
  | .symData1 => Sys2Proof.Machine.execSymData1 s
  | .symData4 => Sys2Proof.Machine.execSymData4 s
  | .symData5 => Sys2Proof.Machine.execSymData5 s
  | .symCtrl01100 => Sys2Proof.Machine.execSymCtrl01100 s
  | .symCtrl01101 => Sys2Proof.Machine.execSymCtrl01101 s
  | .symData6 => Sys2Proof.Machine.execSymData6 s
  | .symData7 => Sys2Proof.Machine.execSymData7 s
  | .symCtrl10000 => Sys2Proof.Machine.execSymCtrl10000 s
  | .symCtrl10001 => Sys2Proof.Machine.execSymCtrl10001 s
  | .symData8 => Sys2Proof.Machine.execSymData8 s
  | .symData9 => Sys2Proof.Machine.execSymData9 s
  | .symData2 => Sys2Proof.Machine.execSymData2 s
  | .symData3 => Sys2Proof.Machine.execSymData3 s
  | .symDataA => Sys2Proof.Machine.execSymDataA s
  | .symDataB => Sys2Proof.Machine.execSymDataB s
  | .symCtrl11000 => Sys2Proof.Machine.execSymCtrl11000 s
  | .symCtrl11001 => Sys2Proof.Machine.execSymCtrl11001 s
  | .symDataC => Sys2Proof.Machine.execSymDataC s
  | .symDataD => Sys2Proof.Machine.execSymDataD s
  | .symDataE => Sys2Proof.Machine.execSymDataE s
  | .symDataF => Sys2Proof.Machine.execSymDataF s
  | .symData0 => Sys2Proof.Machine.execSymData0 s
  | .symCtrl11111 => Sys2Proof.Machine.execSymCtrl11111 s
  | .blockCfg1 p d => Sys2Proof.Machine.execBlockCfg1 p d s
  | .blockCfg4 p d => Sys2Proof.Machine.execBlockCfg4 p d s
  | .blockCfg5 p d => Sys2Proof.Machine.execBlockCfg5 p d s
  | .blockCfg10 p d => Sys2Proof.Machine.execBlockCfg10 p d s
  | .blockCfg11 p d => Sys2Proof.Machine.execBlockCfg11 p d s
  | .blockCfg20 p d => Sys2Proof.Machine.execBlockCfg20 p d s

end Sys2Proof.Machine
end

