-- ==== Sys2Proof/Decode.lean ====
section
/-! DEFINITION. The decoder (30_encoding.md R62, R67, R74 to R76), the encoder after it, and the table's view of the decoder. -/

namespace Sys2Proof

/-- Why the decoder refuses a packet, by name. -/
inductive DecodeError where
  /-- The selector is not one of the seventeen of 30_encoding.md R75; it is reserved (R76). -/
  | reservedSelector (selector : BitVec 8)
  /-- No named layout of 30_encoding.md R67 has this many bits. That such a block is no instruction is the model's:
  DESIGN CHOICE, log 14. -/
  | noLayout (bits : Nat)
deriving DecidableEq, Repr

/-- What a position of a block layout holds (30_encoding.md R65). -/
inductive Role where
  | parity
  | data
deriving DecidableEq, Repr

/-- The layout of BLOCK.CFG1, position 1 first (30_encoding.md R67): `PPD`. -/
def layoutCfg1 : List Role :=
  [.parity, .parity, .data]

/-- The layout of BLOCK.CFG4, position 1 first (30_encoding.md R67): `PPDPDDD`. -/
def layoutCfg4 : List Role :=
  [.parity, .parity, .data, .parity, .data, .data, .data]

/-- The layout of BLOCK.CFG5, position 1 first (30_encoding.md R67): `PPDPDDDPD`. -/
def layoutCfg5 : List Role :=
  [.parity, .parity, .data, .parity, .data, .data, .data, .parity, .data]

/-- The layout of BLOCK.CFG10, position 1 first (30_encoding.md R67): `PPDPDDDPDDDDDD`. -/
def layoutCfg10 : List Role :=
  [.parity, .parity, .data, .parity, .data, .data, .data, .parity, .data, .data, .data, .data, .data, .data]

/-- The layout of BLOCK.CFG11, position 1 first (30_encoding.md R67): `PPDPDDDPDDDDDDD`. -/
def layoutCfg11 : List Role :=
  [.parity, .parity, .data, .parity, .data, .data, .data, .parity, .data, .data, .data, .data, .data, .data, .data]

/-- The layout of BLOCK.CFG20, position 1 first (30_encoding.md R67): `PPDPDDDPDDDDDDDPDDDDDDDDD`. -/
def layoutCfg20 : List Role :=
  [.parity, .parity, .data, .parity, .data, .data, .data, .parity, .data, .data, .data, .data, .data, .data, .data, .parity, .data, .data, .data, .data, .data, .data, .data, .data, .data]

/-- The bits of a block at the positions of one role, in order. -/
def pick (role : Role) : List Role → Bits → Bits
  | k :: l, b :: s => if k = role then b :: pick role l s else pick role l s
  | _, _ => []

/-- The block with the parity bits `p` and the data bits `d` at the positions of their role, each in order. -/
def weave : List Role → Bits → Bits → Bits
  | [], _, _ => []
  | .parity :: l, p, d => p.headD false :: weave l p.tail d
  | .data :: l, p, d => d.headD false :: weave l p d.tail

/-- The operation a selector names (30_encoding.md R74, R75), with its operands. -/
def decodeOp (op : BitVec 8) (a : Operands) : Except DecodeError Instr :=
  match op.toNat with
  | 0x10 => .ok (.bcTobin a.text)
  | 0x11 => .ok (.bcFrombin a.bits)
  | 0x20 => .ok (.padMin a.num a.msgBits)
  | 0x21 => .ok (.padApply a.bits a.num)
  | 0x30 => .ok (.lcEnc a.bits)
  | 0x31 => .ok (.lcDec a.bits)
  | 0x40 => .ok (.frFrame a.bits)
  | 0x41 => .ok (.frDeframe a.bits)
  | 0x50 => .ok (.eccRed a.msgBits)
  | 0x51 => .ok (.eccEnc a.bits)
  | 0x52 => .ok (.eccCor a.bits)
  | 0x53 => .ok (.eccExt a.bits)
  | 0x60 => .ok (.rsmPush a.bits)
  | 0x70 => .ok (.txChunk a.bits)
  | 0x71 => .ok (.txSend a.text)
  | 0x72 => .ok (.rxBlock a.bits)
  | 0xF0 => .ok .sysReset
  | _ => .error (.reservedSelector op)

/-- The symbol a 5-bit word is (30_encoding.md R62); every word of the space is one (20_memory.md R52). -/
def decodeSymbol (w : Symbol) : Instr :=
  match w.toNat with
  | 0b00000 => .symCtrl00000
  | 0b00001 => .symDelim
  | 0b00010 => .symCtrl00010
  | 0b00011 => .symCtrl00011
  | 0b00100 => .symCtrl00100
  | 0b00101 => .symCtrl00101
  | 0b00110 => .symCtrl00110
  | 0b00111 => .symCtrl00111
  | 0b01000 => .symCtrl01000
  | 0b01001 => .symData1
  | 0b01010 => .symData4
  | 0b01011 => .symData5
  | 0b01100 => .symCtrl01100
  | 0b01101 => .symCtrl01101
  | 0b01110 => .symData6
  | 0b01111 => .symData7
  | 0b10000 => .symCtrl10000
  | 0b10001 => .symCtrl10001
  | 0b10010 => .symData8
  | 0b10011 => .symData9
  | 0b10100 => .symData2
  | 0b10101 => .symData3
  | 0b10110 => .symDataA
  | 0b10111 => .symDataB
  | 0b11000 => .symCtrl11000
  | 0b11001 => .symCtrl11001
  | 0b11010 => .symDataC
  | 0b11011 => .symDataD
  | 0b11100 => .symDataE
  | 0b11101 => .symDataF
  | 0b11110 => .symData0
  | _ => .symCtrl11111

/-- The named layout of a bit string in block form, by its length, and the two fields of it (30_encoding.md R67). A length that is no
named configuration's (00_scope.md R12) is refused by name, on which the spec is silent: DESIGN CHOICE, log 14. -/
def decodeBlock (b : Bits) : Except DecodeError Instr :=
  match b.length with
  | 3 => .ok (.blockCfg1 (Machine.ofBits 2 (pick .parity layoutCfg1 b)) (Machine.ofBits 1 (pick .data layoutCfg1 b)))
  | 7 => .ok (.blockCfg4 (Machine.ofBits 3 (pick .parity layoutCfg4 b)) (Machine.ofBits 4 (pick .data layoutCfg4 b)))
  | 9 => .ok (.blockCfg5 (Machine.ofBits 4 (pick .parity layoutCfg5 b)) (Machine.ofBits 5 (pick .data layoutCfg5 b)))
  | 14 => .ok (.blockCfg10 (Machine.ofBits 4 (pick .parity layoutCfg10 b)) (Machine.ofBits 10 (pick .data layoutCfg10 b)))
  | 15 => .ok (.blockCfg11 (Machine.ofBits 4 (pick .parity layoutCfg11 b)) (Machine.ofBits 11 (pick .data layoutCfg11 b)))
  | 25 => .ok (.blockCfg20 (Machine.ofBits 5 (pick .parity layoutCfg20 b)) (Machine.ofBits 20 (pick .data layoutCfg20 b)))
  | k => .error (.noLayout k)

/-- The instruction a packet is, or the reason it is none. Total on every packet. -/
def decode : Packet → Except DecodeError Instr
  | .op selector operands => decodeOp selector operands
  | .symbol w => .ok (decodeSymbol w)
  | .block b => decodeBlock b

/-- The packet that carries an instruction, from the same tables (30_encoding.md R62, R67, R75). -/
def encode : Instr → Packet
  | .bcTobin t => .op 0x10#8 { text := t }
  | .bcFrombin b => .op 0x11#8 { bits := b }
  | .padMin len m => .op 0x20#8 { num := len, msgBits := m }
  | .padApply b k => .op 0x21#8 { bits := b, num := k }
  | .lcEnc b => .op 0x30#8 { bits := b }
  | .lcDec b => .op 0x31#8 { bits := b }
  | .frFrame b => .op 0x40#8 { bits := b }
  | .frDeframe b => .op 0x41#8 { bits := b }
  | .eccRed m => .op 0x50#8 { msgBits := m }
  | .eccEnc b => .op 0x51#8 { bits := b }
  | .eccCor b => .op 0x52#8 { bits := b }
  | .eccExt b => .op 0x53#8 { bits := b }
  | .rsmPush b => .op 0x60#8 { bits := b }
  | .txChunk b => .op 0x70#8 { bits := b }
  | .txSend t => .op 0x71#8 { text := t }
  | .rxBlock b => .op 0x72#8 { bits := b }
  | .sysReset => .op 0xF0#8 {}
  | .symCtrl00000 => .symbol 0b00000#5
  | .symDelim => .symbol 0b00001#5
  | .symCtrl00010 => .symbol 0b00010#5
  | .symCtrl00011 => .symbol 0b00011#5
  | .symCtrl00100 => .symbol 0b00100#5
  | .symCtrl00101 => .symbol 0b00101#5
  | .symCtrl00110 => .symbol 0b00110#5
  | .symCtrl00111 => .symbol 0b00111#5
  | .symCtrl01000 => .symbol 0b01000#5
  | .symData1 => .symbol 0b01001#5
  | .symData4 => .symbol 0b01010#5
  | .symData5 => .symbol 0b01011#5
  | .symCtrl01100 => .symbol 0b01100#5
  | .symCtrl01101 => .symbol 0b01101#5
  | .symData6 => .symbol 0b01110#5
  | .symData7 => .symbol 0b01111#5
  | .symCtrl10000 => .symbol 0b10000#5
  | .symCtrl10001 => .symbol 0b10001#5
  | .symData8 => .symbol 0b10010#5
  | .symData9 => .symbol 0b10011#5
  | .symData2 => .symbol 0b10100#5
  | .symData3 => .symbol 0b10101#5
  | .symDataA => .symbol 0b10110#5
  | .symDataB => .symbol 0b10111#5
  | .symCtrl11000 => .symbol 0b11000#5
  | .symCtrl11001 => .symbol 0b11001#5
  | .symDataC => .symbol 0b11010#5
  | .symDataD => .symbol 0b11011#5
  | .symDataE => .symbol 0b11100#5
  | .symDataF => .symbol 0b11101#5
  | .symData0 => .symbol 0b11110#5
  | .symCtrl11111 => .symbol 0b11111#5
  | .blockCfg1 p d => .block (weave layoutCfg1 (Machine.toBits p) (Machine.toBits d))
  | .blockCfg4 p d => .block (weave layoutCfg4 (Machine.toBits p) (Machine.toBits d))
  | .blockCfg5 p d => .block (weave layoutCfg5 (Machine.toBits p) (Machine.toBits d))
  | .blockCfg10 p d => .block (weave layoutCfg10 (Machine.toBits p) (Machine.toBits d))
  | .blockCfg11 p d => .block (weave layoutCfg11 (Machine.toBits p) (Machine.toBits d))
  | .blockCfg20 p d => .block (weave layoutCfg20 (Machine.toBits p) (Machine.toBits d))

/-- The operands "of zeros" of an operation whose table row gives no bits to its operands: no text, zero numbers, and for an
operand whose length the type fixes (20_memory.md R47) that many zero bits in the configuration after reset (log 13). -/
def zeroOperands (op : BitVec 8) : Operands :=
  match op.toNat with
  | 0x51 | 0x60 => { bits := Machine.zeros resetMsgBits.val }
  | 0x52 | 0x53 | 0x72 => { bits := Machine.zeros (Machine.blockBits resetMsgBits.val) }
  | _ => {}

/-- The packet of a row of spec/opcode_table.json whose bits are `w`. The table lists three formats together and gives no bit
that tells them apart: a word of the width of a layout is a block; else a byte whose eight bits are an operation's `match`
under its mask 0xFF is that operation; else the five bits under the mask 0x1F are a symbol (log 13). -/
def tablePacket (nbits w : Nat) : Packet :=
  match nbits with
  | 3 | 7 | 9 | 14 | 15 | 25 => .block (Machine.bitsN nbits w)
  | 16 => .block (Machine.bitsN 15 w)
  | 32 => .block (Machine.bitsN 25 w)
  | 8 =>
    match decodeOp (BitVec.ofNat 8 w) {} with
    | .ok _ => .op (BitVec.ofNat 8 w) (zeroOperands (BitVec.ofNat 8 w))
    | .error _ => .symbol (BitVec.ofNat 5 w)
  | _ => .symbol (BitVec.ofNat 5 w)

/-- The instruction the decoder reads from a table row's word. -/
def decodeTableWord (nbits w : Nat) : Option Instr :=
  match decode (tablePacket nbits w) with
  | .ok i => some i
  | .error _ => none

end Sys2Proof
end

