-- ==== Sys2Proof/Machine/Fetch.lean ====
section
/-! DEFINITION. Taking what the host presents (10_state.md R30): decoding a packet, the RESET input, the configuration input. -/

namespace Sys2Proof.Machine

/-- `s` with `rs` as what the host has presented and the core has not taken. -/
def State.withInput (s : State) (rs : List Request) : State := { s with input := rs }

/-- What the core does with one thing the host does: a packet runs as its instruction, a reserved selector is refused
(30_encoding.md R76), a bare block of a length that no named layout has is refused too (DESIGN CHOICE, log 14), the RESET input is
SYS.RESET (70_reset_and_hazards.md R210), and driving CFG.MSG_BITS changes the input alone
(10_state.md R24); it is no operation, so it comes after the end of the one before it (60_exceptions.md R195). -/
def State.perform (s : State) : Request → Host.Outcome State Fault Refusal
  | .present p =>
    match decode p with
    | .ok i => exec i s
    | .error _ => .next s.refuse
  | .resetInput => exec .sysReset s
  | .configure m => .next (s.endOperation.drive m)

end Sys2Proof.Machine
end

