-- ==== Sys2Proof/Machine/Step.lean ====
section
/-! DEFINITION. One step: the core takes the oldest thing the host has presented and performs it whole (20_memory.md R50, R55). -/

namespace Sys2Proof.Machine

/-- One step. With nothing presented the core waits (70_reset_and_hazards.md R210, log 3), and the operation
performed before has ended: MSG_VALID is cleared (60_exceptions.md R195). -/
def step (s : State) : Host.Outcome State Fault Refusal :=
  match s.input with
  | [] => .next s.endOperation
  | r :: rest => (s.withInput rest).perform r

/-- `s` with the instruction of a table row's word presented next, before whatever else the host has presented. -/
def State.withFetchWord (s : State) (nbits w : Nat) : State :=
  s.withInput (.present (tablePacket nbits w) :: s.input)

end Sys2Proof.Machine
end

