-- ==== Sys2Proof/Machine/Flags.lean ====
section
/-! DEFINITION. The status values (10_state.md R29, R30, 60_exceptions.md R195), the analogue of flags, and their numeric codes. -/

namespace Sys2Proof.Machine

/-- The encoding of `STATE` (10_state.md R21). -/
def RsmState.code : RsmState → BitVec 1
  | .awaitingStart => 0#1
  | .inFrame => 1#1

/-- The encoding of `FAULT.CODE` (60_exceptions.md R180). -/
def FaultCode.code : FaultCode → BitVec 3
  | .none => 0#3
  | .invariantViolation => 1#3
  | .framingDesync => 2#3
  | .invalidCodeword => 3#3
  | .bufferOverflow => 4#3

/-- The encoding of `FAULT.UNIT` (60_exceptions.md R181). -/
def FaultUnit.code : FaultUnit → BitVec 3
  | .none => 0#3
  | .bc => 1#3
  | .pad => 2#3
  | .lc => 3#3
  | .fr => 4#3
  | .ecc => 5#3
  | .rsm => 6#3
  | .pipeline => 7#3

/-- `FAULT.CODE ≠ 0`, the receive path is stopped (10_state.md R29 (b)). -/
def State.faulted (s : State) : Bool := s.faultCode != .none

/-- `MSG_VALID` (10_state.md R29 (c)): the operation just performed performed `emit`. -/
def State.msgValid (s : State) : Bool := s.msgOut.isSome

/-- What stands at the `STATUS` output (10_state.md R30). -/
structure Status where
  state : BitVec 1
  bufLen : Nat
  faultCode : BitVec 3
  faultUnit : BitVec 3
  msgBits : Nat
  redBits : Nat
  blockBits : Nat
deriving DecidableEq, Repr

/-- A read of `STATUS`: no operation, no side effect (10_state.md R30, 20_memory.md R51). -/
def State.status (s : State) : Status where
  state := s.fsm.code
  bufLen := s.buf.length
  faultCode := s.faultCode.code
  faultUnit := s.faultUnit.code
  msgBits := s.msgBits.val
  redBits := redBits s.msgBits.val
  blockBits := blockBits s.msgBits.val

end Sys2Proof.Machine
end

