-- ==== Sys2Proof/Safety.lean ====
section
/-! DEFINITION. The terms of the claims: the invariant of the receive path (45_reassembler.md R160), a run that never stops, and the
vocabulary of the end-to-end law (46_pipeline.md R174). -/

namespace Sys2Proof.Machine

/-- What holds between operations (45_reassembler.md R160, 10_state.md R22, R23): the buffer grows in whole chunks and fits its
capacity; FAULT holds a code and a unit, or neither; and while no fault is recorded, STATE says what the buffer begins with. -/
structure State.Inv (s : State) : Prop where
  bufAligned : s.buf.length % s.msgBits.val = 0
  bufFits : ∀ cap, s.bufCap = some cap → s.buf.length ≤ cap
  faultPaired : s.faultCode = .none ↔ s.faultUnit = .none
  awaitingShort : s.faultCode = .none → s.fsm = .awaitingStart → s.buf.length < 5
  inFrameStarted : s.faultCode = .none → s.fsm = .inFrame → 5 ≤ s.buf.length ∧ first s.buf 5 = delim
  inFrameOpen : s.faultCode = .none → s.fsm = .inFrame → ¬ (10 ≤ s.buf.length ∧ last s.buf 5 = delim)
  awaitingEmpty : s.faultCode = .none → 5 ≤ s.msgBits.val → s.fsm = .awaitingStart → s.buf = []

/-- A safe run: no number of steps reaches a machine fault or a refusal (70_reset_and_hazards.md R225, the only liveness statement). -/
def State.Safe (s : State) : Prop := ∀ k, ∃ t, Sys2Proof.core.run k s = .next t

/-- The receiver is ready for a new frame: after reset or just after an `emit` (46_pipeline.md R174). -/
def State.Ready (s : State) : Prop := s.fsm = .awaitingStart ∧ s.buf = [] ∧ s.faultCode = .none

/-- `k` more bits fit the buffer (00_scope.md R11). -/
def State.Fits (s : State) (k : Nat) : Prop := ∀ cap, s.bufCap = some cap → s.buf.length + k ≤ cap

/-- `y` differs from the block `x` in at most one position (46_pipeline.md R174). -/
def AtMostOneFlip (x y : Bits) : Prop := y = x ∨ ∃ i, 1 ≤ i ∧ i ≤ x.length ∧ y = flipAt x i

/-- No block boundary before the end of the frame `f` shows the delimiter where the end test looks (45_reassembler.md R158). -/
def NoFalseEnd (m : Nat) (f : Bits) : Prop :=
  ∀ k, 10 ≤ k * m → k * m < f.length → last (f.take (k * m)) 5 ≠ delim

/-- The states after each of the operations `RX.BLOCK(y)`, performed in order from `s` (46_pipeline.md R174). -/
def receive (s : State) : List Bits → List State
  | [] => []
  | y :: ys =>
    match exec (.rxBlock y) s with
    | .next t => t :: receive t ys
    | .fault _ => []
    | .refused _ => []

end Sys2Proof.Machine
end

