-- ==== Sys2Proof/WellFormed.lean ====
section
/-! DEFINITION. Which operands an operation's type admits (20_memory.md R47, R48, 92_eei_decisions.md D25, D6): what the spec calls
"not representable" is ill-formed here. The length conditions that raise a fault are no part of it. -/

namespace Sys2Proof

/-- The operands are ones the operation's type admits in the configuration `MSG_BITS = m`. -/
def Instr.wellFormed (m : MsgBits) : Instr → Bool
  | .padMin _ k => 0 < k
  | .eccRed k => 0 < k
  | .eccEnc d => d.length == m.val
  | .rsmPush d => d.length == m.val
  | .eccCor b => b.length == Machine.blockBits m.val
  | .eccExt b => b.length == Machine.blockBits m.val
  | .rxBlock x => x.length == Machine.blockBits m.val
  | .bcTobin _ | .bcFrombin _ | .padApply _ _ | .lcEnc _ | .lcDec _ | .frFrame _ | .frDeframe _ | .txChunk _ | .txSend _
  | .sysReset
  | .symCtrl00000 | .symDelim | .symCtrl00010 | .symCtrl00011 | .symCtrl00100 | .symCtrl00101 | .symCtrl00110
  | .symCtrl00111 | .symCtrl01000 | .symData1 | .symData4 | .symData5 | .symCtrl01100 | .symCtrl01101 | .symData6
  | .symData7 | .symCtrl10000 | .symCtrl10001 | .symData8 | .symData9 | .symData2 | .symData3 | .symDataA | .symDataB
  | .symCtrl11000 | .symCtrl11001 | .symDataC | .symDataD | .symDataE | .symDataF | .symData0 | .symCtrl11111
  | .blockCfg1 _ _ | .blockCfg4 _ _ | .blockCfg5 _ _ | .blockCfg10 _ _ | .blockCfg11 _ _ | .blockCfg20 _ _ => true

end Sys2Proof
end

