-- ==== Sys2Proof/Certificates/Slice0/Obligations.lean ====
section
/-! DEFINITION. The statements for the provers. A next state is written out as an update of the state before, so each such
statement is also the frame of its instruction: what the update does not name is unchanged. The machine has no memory cells
(20_memory.md R40), so there are no stored bytes to name. -/

open Sys2Proof Sys2Proof.Machine

/-! ## The step -/

/-- A step runs the decoded instruction: the core takes the packet that stands first, and nothing else is added around exec
(20_memory.md R50, R55). The queue of presented packets is the model's (log 3). -/
def Obligations.StepRunsDecodedInstruction : Prop :=
  ∀ (s : State) (p : Packet) (rest : List Request) (i : Instr),
    s.input = .present p :: rest → decode p = .ok i → step s = exec i { s with input := rest }

/-- The RESET input and the selector 0xF0 perform the same operation (70_reset_and_hazards.md R210). -/
def Obligations.ResetInputAndSelectorAgree : Prop :=
  ∀ (s : State) (rest : List Request) (a : Operands),
    (s.input = .resetInput :: rest → step s = exec .sysReset { s with input := rest }) ∧
    (s.input = .present (.op 0xF0#8 a) :: rest → step s = exec .sysReset { s with input := rest })

/-- A selector outside the seventeen of 30_encoding.md R75 is refused: the outputs say so and no state element changes (R76). -/
def Obligations.ReservedSelectorRefused : Prop :=
  ∀ (s : State) (op : BitVec 8) (a : Operands) (rest : List Request),
    op ∉ [0x10#8, 0x11#8, 0x20#8, 0x21#8, 0x30#8, 0x31#8, 0x40#8, 0x41#8, 0x50#8, 0x51#8, 0x52#8, 0x53#8, 0x60#8, 0x70#8,
      0x71#8, 0x72#8, 0xF0#8] →
    s.input = .present (.op op a) :: rest →
    step s = .next { s with input := rest, result := .refused, msgOut := none, txBlocks := [] }

/-- Driving CFG.MSG_BITS changes the input and not the sampled value (10_state.md R24); with nothing presented the core waits
(70_reset_and_hazards.md R210). Both are the model's reading of the host's side (log 3). In both, the operation performed before has
ended: MSG_VALID is cleared (60_exceptions.md R195); that TX_BLOCKS is cleared with it and RESULT is kept is the model's (log 4). -/
def Obligations.ConfigureAndIdleSteps : Prop :=
  (∀ (s : State) (m : MsgBits) (rest : List Request), s.input = .configure m :: rest →
    step s = .next { s with input := rest, cfgMsgBits := m, msgOut := none, txBlocks := [] }) ∧
  (∀ s : State, s.input = [] → step s = .next { s with msgOut := none, txBlocks := [] })

/-- No run ever stops: every performed operation completes (70_reset_and_hazards.md R225), a fault of the spec being a result after
which the host goes on (60_exceptions.md R185). -/
def Obligations.EveryRunIsSafe : Prop := ∀ s : State, s.Safe

/-! ## Encoding -/

/-- A few packets written out from 30_encoding.md R75, R62 and R67 decode to the rows they stand for. -/
def Obligations.WrittenPacketsDecode : Prop :=
  decode (.op 0b00010000#8 { text := [0x48#8, 0x69#8] }) = .ok (.bcTobin [0x48#8, 0x69#8]) ∧
  decode (.op 0b00100000#8 { num := 16, msgBits := 5 }) = .ok (.padMin 16 5) ∧
  decode (.op 0b00110001#8 { bits := delim }) = .ok (.lcDec delim) ∧
  decode (.op 0b01010011#8 { bits := zeros 9 }) = .ok (.eccExt (zeros 9)) ∧
  decode (.op 0b11110000#8 {}) = .ok .sysReset ∧
  decode (.symbol 0b01001#5) = .ok .symData1 ∧
  decode (.symbol 0b00001#5) = .ok .symDelim ∧
  decode (.block [true, false, true, true, false, true, false]) = .ok (.blockCfg4 0b101#3 0b1010#4) ∧
  decode (.op 0x54#8 {}) = .error (.reservedSelector 0x54#8)

/-- The seventeen selectors and the operation each names (30_encoding.md R74, R75): whatever operands stand beside it, a selector
reads the ones its row names, and no other selector names an operation. The ports of the operands are the model's (log 5). -/
def Obligations.SelectorsNameTheOperations : Prop :=
  (∀ a : Operands,
    decode (.op 0x10#8 a) = .ok (.bcTobin a.text) ∧ decode (.op 0x11#8 a) = .ok (.bcFrombin a.bits) ∧
    decode (.op 0x20#8 a) = .ok (.padMin a.num a.msgBits) ∧ decode (.op 0x21#8 a) = .ok (.padApply a.bits a.num) ∧
    decode (.op 0x30#8 a) = .ok (.lcEnc a.bits) ∧ decode (.op 0x31#8 a) = .ok (.lcDec a.bits) ∧
    decode (.op 0x40#8 a) = .ok (.frFrame a.bits) ∧ decode (.op 0x41#8 a) = .ok (.frDeframe a.bits) ∧
    decode (.op 0x50#8 a) = .ok (.eccRed a.msgBits) ∧ decode (.op 0x51#8 a) = .ok (.eccEnc a.bits) ∧
    decode (.op 0x52#8 a) = .ok (.eccCor a.bits) ∧ decode (.op 0x53#8 a) = .ok (.eccExt a.bits) ∧
    decode (.op 0x60#8 a) = .ok (.rsmPush a.bits) ∧ decode (.op 0x70#8 a) = .ok (.txChunk a.bits) ∧
    decode (.op 0x71#8 a) = .ok (.txSend a.text) ∧ decode (.op 0x72#8 a) = .ok (.rxBlock a.bits) ∧
    decode (.op 0xF0#8 a) = .ok .sysReset) ∧
  ∀ (op : BitVec 8) (a : Operands),
    op ∉ [0x10#8, 0x11#8, 0x20#8, 0x21#8, 0x30#8, 0x31#8, 0x40#8, 0x41#8, 0x50#8, 0x51#8, 0x52#8, 0x53#8, 0x60#8, 0x70#8,
      0x71#8, 0x72#8, 0xF0#8] →
    decode (.op op a) = .error (.reservedSelector op)

/-- Decode and encode agree on every instruction, with every operand at every value. -/
def Obligations.DecodeOfEncodeIsTheInstruction : Prop :=
  ∀ i : Instr, decode (encode i) = .ok i

/-- A symbol word and a block each have one meaning: encoding what they decode to gives them back, and a selector keeps its value. -/
def Obligations.EncodeOfDecodeIsTheWord : Prop :=
  (∀ (w : Symbol) (i : Instr), decode (.symbol w) = .ok i → encode i = .symbol w) ∧
  (∀ (b : Bits) (i : Instr), decode (.block b) = .ok i → encode i = .block b) ∧
  (∀ (op : BitVec 8) (a : Operands) (i : Instr), decode (.op op a) = .ok i → ∃ a', encode i = .op op a')

/-- The layouts of the named configurations (30_encoding.md R67): parity at powers of two, data elsewhere, and the coverage sets. -/
def Obligations.NamedLayoutsAndCoverage : Prop :=
  (∀ l ∈ [(layoutCfg1, 1), (layoutCfg4, 4), (layoutCfg5, 5), (layoutCfg10, 10), (layoutCfg11, 11), (layoutCfg20, 20)],
    l.1 = (positions (blockBits l.2)).map fun i => if isPow2 i then Role.parity else Role.data) ∧
  [blockBits 1, blockBits 4, blockBits 5, blockBits 10, blockBits 11, blockBits 20] = [3, 7, 9, 14, 15, 25] ∧
  [1, 2].map (cov · 3) = [[3], [3]] ∧
  [1, 2, 4].map (cov · 7) = [[3, 5, 7], [3, 6, 7], [5, 6, 7]] ∧
  [1, 2, 4, 8].map (cov · 9) = [[3, 5, 7, 9], [3, 6, 7], [5, 6, 7], [9]] ∧
  [1, 2, 4, 8].map (cov · 14) =
    [[3, 5, 7, 9, 11, 13], [3, 6, 7, 10, 11, 14], [5, 6, 7, 12, 13, 14], [9, 10, 11, 12, 13, 14]] ∧
  [1, 2, 4, 8].map (cov · 15) =
    [[3, 5, 7, 9, 11, 13, 15], [3, 6, 7, 10, 11, 14, 15], [5, 6, 7, 12, 13, 14, 15], [9, 10, 11, 12, 13, 14, 15]]

/-! ## State, reset, status -/

/-- The values 10_state.md R33 gives for reset. (The values of MSG_BITS, the table, the capacity and the outputs after reset
are the model's choice, log 1, 2, 4, and are not stated.) -/
def Obligations.ResetStateHoldsTheResetValues : Prop :=
  State.reset.fsm = .awaitingStart ∧ State.reset.buf = [] ∧ State.reset.faultCode.code = 0#3 ∧
  State.reset.faultUnit.code = 0#3 ∧ State.reset.msgBits = State.reset.cfgMsgBits

/-- SYS.RESET (46_pipeline.md R176): it writes every element of state and samples MSG_BITS, discards a frame in progress without
emission and answers Done in every state; the selector 0xF0 and the RESET input perform it; it is the only operation that clears
FAULT and the only one at which MSG_BITS changes. -/
def Obligations.SysResetRestartsTheCore : Prop :=
  ∀ s : State,
    exec .sysReset s = .next { s with
      fsm := .awaitingStart, buf := [], faultCode := .none, faultUnit := .none, msgBits := s.cfgMsgBits,
      result := .done .nothing, msgOut := none, txBlocks := [] } ∧
    s.perform .resetInput = exec .sysReset s ∧
    (∀ a : Operands, s.perform (.present (.op 0xF0#8 a)) = exec .sysReset s) ∧
    ∀ (i : Instr) (t : State), exec i s = .next t →
      (s.faultCode ≠ .none → t.faultCode = .none → i = .sysReset) ∧ (t.msgBits ≠ s.msgBits → i = .sysReset)

/-- The STATUS output shows the seven values of 10_state.md R30, in the codes of R21 and of 60_exceptions.md R180 and R181. -/
def Obligations.StatusShowsTheState : Prop :=
  (∀ s : State, s.status.bufLen = s.buf.length ∧ s.status.msgBits = s.msgBits.val ∧
    s.status.redBits = redBits s.msgBits.val ∧ s.status.blockBits = s.msgBits.val + redBits s.msgBits.val ∧
    (s.status.state = 0#1 ↔ s.fsm = .awaitingStart) ∧ (s.status.state = 1#1 ↔ s.fsm = .inFrame) ∧
    s.status.faultCode = s.faultCode.code ∧ s.status.faultUnit = s.faultUnit.code) ∧
  [FaultCode.none, .invariantViolation, .framingDesync, .invalidCodeword, .bufferOverflow].map FaultCode.code
    = [0#3, 1#3, 2#3, 3#3, 4#3] ∧
  [FaultUnit.none, .bc, .pad, .lc, .fr, .ecc, .rsm, .pipeline].map FaultUnit.code
    = [0#3, 1#3, 2#3, 3#3, 4#3, 5#3, 6#3, 7#3]

/-- MSG_BITS changes only at a reset, to the value at CFG.MSG_BITS (10_state.md R24, 92_eei_decisions.md D6, D26). -/
def Obligations.MsgBitsSampledAtResetOnly : Prop :=
  ∀ s t : State, step s = .next t →
    t.msgBits = s.msgBits ∨
    (t.msgBits = s.cfgMsgBits ∧ ∃ rest, s.input = .resetInput :: rest ∨
      ∃ p, s.input = .present p :: rest ∧ decode p = .ok .sysReset)

/-- No step writes the tables or the buffer's capacity (10_state.md R26, 20_memory.md R58, 00_scope.md R11). -/
def Obligations.TablesAndCapacityNeverWritten : Prop :=
  ∀ s t : State, step s = .next t → t.lcTable = s.lcTable ∧ t.bufCap = s.bufCap

/-- Every operation but RSM.PUSH, RX.BLOCK and SYS.RESET writes nothing but the outputs, and its result is a function of its operands,
MSG_BITS and the table: it reads and writes none of STATE, BUF, FAULT (10_state.md R31). The blocks of TX.SEND stand at TX_BLOCKS only
once all of them are computed. -/
def Obligations.StatelessOperationsTouchNoState : Prop :=
  ∀ (op : BitVec 8) (a : Operands) (i : Instr), decode (.op op a) = .ok i →
    (∀ d, i ≠ .rsmPush d) → (∀ x, i ≠ .rxBlock x) → i ≠ .sysReset →
    ∀ s t : State, exec i s = .next t →
      t = { s with result := t.result, msgOut := none, txBlocks := t.txBlocks } ∧
      ∀ s' t' : State, s'.msgBits = s.msgBits → s'.lcTable = s.lcTable → exec i s' = .next t' →
        t'.result = t.result ∧ t'.txBlocks = t.txBlocks

/-- An operand the operation's type forbids ("not representable; a realisation should refuse", 93_implementation_defined.md I15, I23)
is refused in every state. This is the model's choice for an input the spec gives no behaviour (log 10). -/
def Obligations.IllTypedOperandRefused : Prop :=
  ∀ (i : Instr) (s : State), i.wellFormed s.msgBits = false →
    exec i s = .next { s with result := .refused, msgOut := none, txBlocks := [] }

/-! ## BitCodec -/

/-- BC.TOBIN: eight bits a byte, most significant first, in input order (40_bitcodec.md R90). -/
def Obligations.ToBinaryWritesEachByteMsbFirst : Prop :=
  ∀ (t : List Byte) (s : State), ∃ o : Bits,
    exec (.bcTobin t) s = .next { s with result := .done (.bits o), msgOut := none, txBlocks := [] } ∧
    o.length = 8 * t.length ∧
    ∀ (j : Nat) (h : j < t.length), uint (slice o (8 * j) (8 * j + 8)) = t[j].toNat

/-- BC.FROMBIN: the length fault before any group is read; else the non-zero groups in order (40_bitcodec.md R91). -/
def Obligations.FromBinaryDropsZeroGroups : Prop :=
  ∀ (b : Bits) (s : State),
    (b.length % 8 ≠ 0 → exec (.bcFrombin b) s =
      .next { s with result := .fault .invariantViolation .bc, msgOut := none, txBlocks := [] }) ∧
    (b.length % 8 = 0 → ∃ t : List Byte,
      exec (.bcFrombin b) s = .next { s with result := .done (.text t), msgOut := none, txBlocks := [] } ∧
      t.map BitVec.toNat =
        ((List.range (b.length / 8)).map fun j => uint (slice b (8 * j) (8 * j + 8))).filter (· ≠ 0))

/-- BC.FROMBIN after BC.TOBIN drops exactly the zero bytes, padding in front included (40_bitcodec.md R92). -/
def Obligations.BitCodecRoundTripDropsZeroBytes : Prop :=
  ∀ t : List Byte,
    fromBinary (toBinary t) = .ok (t.filter (· ≠ 0#8)) ∧
    (fromBinary (toBinary t) = .ok t ↔ 0#8 ∉ t) ∧
    ∀ k, fromBinary (zeros (8 * k) ++ toBinary t) = fromBinary (toBinary t)

/-! ## Padder -/

/-- PAD.MIN gives the smallest count for which both conditions hold (41_padder.md R100, with condition (a) read mod 8: C1). That `m` is the
operation's own operand, free of the sampled MSG_BITS, is the model's reading of 30_encoding.md R75 (log 11, DEDUCED); 41_padder.md
R100 writes `m = MSG_BITS`. -/
def Obligations.PadMinIsTheSmallestPadding : Prop :=
  ∀ (len m : Nat) (s : State), 0 < m → ∃ pad : Nat,
    exec (.padMin len m) s = .next { s with result := .done (.nat pad), msgOut := none, txBlocks := [] } ∧
    (len + pad) % 8 = 0 ∧ ((len + pad) / 4 * 5 + 10) % m = 0 ∧
    ∀ k < pad, ¬ ((len + k) % 8 = 0 ∧ ((len + k) / 4 * 5 + 10) % m = 0)

/-- The closed form of PAD.MIN and its bounds: the loop body runs at most `q − 1` times, the result is at most `8(q − 1) + 7`, and `q` is
within the source's own figure `m / gcd(5, m)` (41_padder.md R102). -/
def Obligations.PadMinClosedForm : Prop :=
  ∀ len m q : Nat, 0 < m → q = m / Nat.gcd 10 m →
    minPadBits len m = 8 * (q * (((len + 7) / 8 + 1 + (q - 1)) / q) - 1) - len ∧
    minPadBits len m ≤ 8 * (q - 1) + 7 ∧ q ≤ m / Nat.gcd 5 m ∧
    ∀ fuel, q - 1 ≤ fuel → padSearch m fuel (8 * ((len + 7) / 8)) = len + minPadBits len m

/-- PAD.APPLY puts the zeros in front and checks nothing (41_padder.md R101). -/
def Obligations.PadApplyPrependsZeros : Prop :=
  ∀ (b : Bits) (k : Nat) (s : State),
    exec (.padApply b k) s =
      .next { s with result := .done (.bits (List.replicate k false ++ b)), msgOut := none, txBlocks := [] }

/-! ## LineCoder and the symbol rows -/

/-- LC.ENC: the length fault first; else every 4-bit group through the table, in order, at 5/4 of the length (42_linecoder.md R110). -/
def Obligations.LineEncodeMapsEachGroup : Prop :=
  ∀ (b : Bits) (s : State),
    (b.length % 4 ≠ 0 → exec (.lcEnc b) s =
      .next { s with result := .fault .invariantViolation .lc, msgOut := none, txBlocks := [] }) ∧
    (b.length % 4 = 0 → ∃ o : Bits,
      exec (.lcEnc b) s = .next { s with result := .done (.bits o), msgOut := none, txBlocks := [] } ∧
      4 * o.length = 5 * b.length ∧
      ∀ j < b.length / 4, ∃ h : uint (slice b (4 * j) (4 * j + 4)) < 16,
        slice o (5 * j) (5 * j + 5) = toBits s.lcTable.sym[uint (slice b (4 * j) (4 * j + 4))])

/-- LC.DEC: the length fault first; then InvalidCodeword if some piece is no data symbol; else the group of every piece, in order
(42_linecoder.md R112). -/
def Obligations.LineDecodeInvertsEachSymbol : Prop :=
  ∀ (b : Bits) (s : State),
    (b.length % 5 ≠ 0 → exec (.lcDec b) s =
      .next { s with result := .fault .invariantViolation .lc, msgOut := none, txBlocks := [] }) ∧
    (b.length % 5 = 0 → (∃ j < b.length / 5, ∀ i : Fin 16, toBits s.lcTable.sym[i] ≠ slice b (5 * j) (5 * j + 5)) →
      exec (.lcDec b) s = .next { s with result := .fault .invalidCodeword .lc, msgOut := none, txBlocks := [] }) ∧
    (b.length % 5 = 0 → (∀ j < b.length / 5, ∃ i : Fin 16, toBits s.lcTable.sym[i] = slice b (5 * j) (5 * j + 5)) →
      ∃ o : Bits,
        exec (.lcDec b) s = .next { s with result := .done (.bits o), msgOut := none, txBlocks := [] } ∧
        5 * o.length = 4 * b.length ∧
        ∀ j < b.length / 5, ∀ i : Fin 16, toBits s.lcTable.sym[i] = slice b (5 * j) (5 * j + 5) →
          slice o (4 * j) (4 * j + 4) = bitsN 4 i)

/-- LC.DEC undoes LC.ENC, LC.ENC undoes LC.DEC on what LC.ENC can give, and the delimiter is never a symbol LC.ENC gives, for every
table with WF_LC (42_linecoder.md R113). -/
def Obligations.LineCodeIsABijection : Prop :=
  ∀ (t : LcTable) (b : Bits), b.length % 4 = 0 → ∃ e : Bits,
    lineEncode t b = .ok e ∧ lineDecode t e = .ok b ∧
    (∀ b' : Bits, lineDecode t e = .ok b' → lineEncode t b' = .ok e) ∧
    ∀ j < e.length / 5, slice e (5 * j) (5 * j + 5) ≠ delim

/-- The 32 rows of the symbol space with the table LC_TABLE_STD: a data symbol gives its group, DELIM and the 15 reserved control symbols
give InvalidCodeword (30_encoding.md R62, R72). That a symbol row runs as its look-up is the model's reading (log 6). -/
def Obligations.SymbolRowsOfTheStandardTable : Prop :=
  ∀ s : State, s.lcTable = lcTableStd →
    (∀ row ∈ [(Instr.symData0, 0), (.symData1, 1), (.symData2, 2), (.symData3, 3), (.symData4, 4), (.symData5, 5),
        (.symData6, 6), (.symData7, 7), (.symData8, 8), (.symData9, 9), (.symDataA, 10), (.symDataB, 11), (.symDataC, 12),
        (.symDataD, 13), (.symDataE, 14), (.symDataF, 15)],
      exec row.1 s = .next { s with result := .done (.bits (bitsN 4 row.2)), msgOut := none, txBlocks := [] }) ∧
    (∀ i ∈ [Instr.symDelim, .symCtrl00000, .symCtrl00010, .symCtrl00011, .symCtrl00100, .symCtrl00101, .symCtrl00110,
        .symCtrl00111, .symCtrl01000, .symCtrl01100, .symCtrl01101, .symCtrl10000, .symCtrl10001, .symCtrl11000,
        .symCtrl11001, .symCtrl11111],
      exec i s = .next { s with result := .fault .invalidCodeword .lc, msgOut := none, txBlocks := [] })

/-- A symbol row is LC.DEC of its one symbol, whatever the table (10_state.md R26, 42_linecoder.md R112; log 6). -/
def Obligations.SymbolRowIsDecodeOfOneSymbol : Prop :=
  ∀ (w : Symbol) (s : State), exec (decodeSymbol w) s = exec (.lcDec (toBits w)) s

/-! ## Framer -/

/-- FR.FRAME puts the delimiter at both ends and inspects nothing (43_framer.md R120). -/
def Obligations.FramePutsDelimitersAround : Prop :=
  ∀ (b : Bits) (s : State),
    exec (.frFrame b) s = .next { s with
      result := .done (.bits ([false, false, false, false, true] ++ b ++ [false, false, false, false, true])),
      msgOut := none, txBlocks := [] }

/-- FR.DEFRAME gives the payload of a string that is delimiter, payload, delimiter, and FramingDesync for every other string
(43_framer.md R121). -/
def Obligations.DeframeStripsOrDesyncs : Prop :=
  ∀ (b : Bits) (s : State),
    (∀ p : Bits, b = delim ++ p ++ delim →
      exec (.frDeframe b) s = .next { s with result := .done (.bits p), msgOut := none, txBlocks := [] }) ∧
    ((¬ ∃ p : Bits, b = delim ++ p ++ delim) →
      exec (.frDeframe b) s = .next { s with result := .fault .framingDesync .fr, msgOut := none, txBlocks := [] })

/-! ## Hamming code and the block rows -/

/-- ECC.RED gives the smallest `r` with `m + r + 1 ≤ 2^r`, and it is at least 2 (44_hamming.md R130, 00_scope.md R8). That `m` is the
operation's own operand, free of the sampled MSG_BITS, is the model's reading of 30_encoding.md R75 (log 11, DEDUCED). -/
def Obligations.RedBitsIsTheSmallest : Prop :=
  ∀ (m : Nat) (s : State), 0 < m → ∃ r : Nat,
    exec (.eccRed m) s = .next { s with result := .done (.nat r), msgOut := none, txBlocks := [] } ∧
    m + r + 1 ≤ 2 ^ r ∧ (∀ k < r, 2 ^ k < m + k + 1) ∧ 2 ≤ r

/-- The block positions: the parity positions are the `r` powers of two in 1 to `n`, the data positions the `m` others in increasing
order, the last of them `n` (20_memory.md R53, 44_hamming.md R131). -/
def Obligations.BlockPositionsSplit : Prop :=
  ∀ m : MsgBits,
    2 ^ (redBits m.val - 1) < blockBits m.val ∧ blockBits m.val < 2 ^ redBits m.val ∧
    (positions (blockBits m.val)).filter isPow2 = parityPositions (redBits m.val) ∧
    (dataPositions (blockBits m.val)).length = m.val ∧
    (dataPositions (blockBits m.val)).Pairwise (· < ·) ∧
    (∀ i, i ∈ dataPositions (blockBits m.val) ↔ (1 ≤ i ∧ i ≤ blockBits m.val) ∧ ¬ ∃ j, i = 2 ^ j) ∧
    (dataPositions (blockBits m.val)).getLast? = some (blockBits m.val)

/-- ECC.ENC: data at the data positions in order, each parity bit the XOR over its coverage set (44_hamming.md R132). -/
def Obligations.EccEncodePlacesDataAndParity : Prop :=
  ∀ (d : Bits) (s : State), d.length = s.msgBits.val → ∃ b : Bits,
    exec (.eccEnc d) s = .next { s with result := .done (.bits b), msgOut := none, txBlocks := [] } ∧
    b.length = blockBits s.msgBits.val ∧
    (∀ k < s.msgBits.val, bitAt b ((dataPositions (blockBits s.msgBits.val)).getD k 0) = d.getD k false) ∧
    ∀ j < redBits s.msgBits.val,
      bitAt b (2 ^ j) = xorOf ((cov (2 ^ j) (blockBits s.msgBits.val)).map (bitAt b))

/-- A block is valid when each parity bit is the XOR over its coverage set, equivalently when the XOR over the set with the parity
position itself is 0; the valid blocks are the range of ECC.ENC, one per chunk (44_hamming.md R133). -/
def Obligations.ValidBlocksAreTheEncodedChunks : Prop :=
  ∀ (m : MsgBits) (b : Bits), b.length = blockBits m.val →
    ((∀ p ∈ parityPositions (redBits m.val), bitAt b p = xorOf ((cov p (blockBits m.val)).map (bitAt b))) ↔
      validBlock b (blockBits m.val) (redBits m.val) = true) ∧
    ((∀ p ∈ parityPositions (redBits m.val), xorOf ((p :: cov p (blockBits m.val)).map (bitAt b)) = false) ↔
      validBlock b (blockBits m.val) (redBits m.val) = true) ∧
    (validBlock b (blockBits m.val) (redBits m.val) = true ↔ ∃ d : Bits, d.length = m.val ∧ eccEncode m.val d = b) ∧
    ∀ d d' : Bits, d.length = m.val → d'.length = m.val → eccEncode m.val d = eccEncode m.val d' → d = d'

/-- ECC.EXT returns the bits at the data positions in order, and undoes ECC.ENC (44_hamming.md R137). -/
def Obligations.EccExtractReadsTheDataPositions : Prop :=
  (∀ (b : Bits) (s : State), b.length = blockBits s.msgBits.val → ∃ d : Bits,
    exec (.eccExt b) s = .next { s with result := .done (.bits d), msgOut := none, txBlocks := [] } ∧
    d.length = s.msgBits.val ∧
    ∀ k < s.msgBits.val, d.getD k false = bitAt b ((dataPositions (blockBits s.msgBits.val)).getD k 0)) ∧
  ∀ (m : MsgBits) (d : Bits), d.length = m.val → eccExtract m.val (eccEncode m.val d) = d

/-- The syndrome is the sum of the parity positions whose check fails, below `2^r` (44_hamming.md R134, R135). -/
def Obligations.SyndromeSumsTheFailingChecks : Prop :=
  ∀ (m : MsgBits) (b : Bits),
    syndrome b (blockBits m.val) (redBits m.val) = ∑ j ∈ Finset.range (redBits m.val),
      (if xorOf ((cov (2 ^ j) (blockBits m.val)).map (bitAt b)) ≠ bitAt b (2 ^ j) then 2 ^ j else 0) ∧
    syndrome b (blockBits m.val) (redBits m.val) < 2 ^ redBits m.val

/-- ECC.COR adds up the parity positions whose check on the received block fails, inverts the bit at that position and no other; a sum
of 0 or above `n` names no position (44_hamming.md R136, 30_encoding.md R73). -/
def Obligations.EccCorrectFlipsTheSyndromePosition : Prop :=
  ∀ (b : Bits) (s : State), b.length = blockBits s.msgBits.val → ∃ (S : Nat) (c : Bits),
    S = ∑ j ∈ Finset.range (redBits s.msgBits.val),
      (if xorOf ((cov (2 ^ j) (blockBits s.msgBits.val)).map (bitAt b)) ≠ bitAt b (2 ^ j) then 2 ^ j else 0) ∧
    exec (.eccCor b) s = .next { s with result := .done (.bits c), msgOut := none, txBlocks := [] } ∧
    c.length = b.length ∧
    ∀ i, 1 ≤ i → i ≤ blockBits s.msgBits.val → bitAt c i = if i = S then !bitAt b i else bitAt b i

/-- A single flipped bit of a valid block is corrected, at every position and for every width, and the data come out as they were sent
(44_hamming.md R138). -/
def Obligations.SingleErrorIsCorrected : Prop :=
  ∀ (m : MsgBits) (d : Bits), d.length = m.val →
    syndrome (eccEncode m.val d) (blockBits m.val) (redBits m.val) = 0 ∧
    eccCorrect m.val (eccEncode m.val d) = eccEncode m.val d ∧
    (∀ x : Bits, AtMostOneFlip (eccEncode m.val d) x → eccExtract m.val (eccCorrect m.val x) = d) ∧
    ∀ i, 1 ≤ i → i ≤ blockBits m.val →
      syndrome (flipAt (eccEncode m.val d) i) (blockBits m.val) (redBits m.val) = i ∧
      eccCorrect m.val (flipAt (eccEncode m.val d) i) = eccEncode m.val d

/-- Two flipped bits: the syndrome is the XOR of the positions, never 0, and the extracted data are right in exactly one kind of case
(44_hamming.md R139). -/
def Obligations.DoubleErrorIsMiscorrected : Prop :=
  ∀ (m : MsgBits) (d : Bits) (i j : Nat), d.length = m.val →
    1 ≤ i → i ≤ blockBits m.val → 1 ≤ j → j ≤ blockBits m.val → i ≠ j →
    syndrome (flipAt (flipAt (eccEncode m.val d) i) j) (blockBits m.val) (redBits m.val) = i ^^^ j ∧ i ^^^ j ≠ 0 ∧
    (eccExtract m.val (eccCorrect m.val (flipAt (flipAt (eccEncode m.val d) i) j)) = d ↔
      isPow2 i = true ∧ isPow2 j = true ∧ blockBits m.val < i + j)

/-- The six block-layout rows: reading a block of the layout gives its widths, its parity bits and its data bits in order, and says
whether it is the valid block of those data (30_encoding.md R67, 44_hamming.md R133). That a layout row runs as this reading is the
model's (log 7). -/
def Obligations.BlockRowsReadTheirFields : Prop :=
  ∀ s : State,
    (∀ (p : BitVec 2) (d : BitVec 1), exec (.blockCfg1 p d) s = .next { s with
      result := .done (.reading ⟨1, 2, 3, toBits p, toBits d,
        decide (weave layoutCfg1 (toBits p) (toBits d) = eccEncode 1 (toBits d))⟩), msgOut := none, txBlocks := [] }) ∧
    (∀ (p : BitVec 3) (d : BitVec 4), exec (.blockCfg4 p d) s = .next { s with
      result := .done (.reading ⟨4, 3, 7, toBits p, toBits d,
        decide (weave layoutCfg4 (toBits p) (toBits d) = eccEncode 4 (toBits d))⟩), msgOut := none, txBlocks := [] }) ∧
    (∀ (p : BitVec 4) (d : BitVec 5), exec (.blockCfg5 p d) s = .next { s with
      result := .done (.reading ⟨5, 4, 9, toBits p, toBits d,
        decide (weave layoutCfg5 (toBits p) (toBits d) = eccEncode 5 (toBits d))⟩), msgOut := none, txBlocks := [] }) ∧
    (∀ (p : BitVec 4) (d : BitVec 10), exec (.blockCfg10 p d) s = .next { s with
      result := .done (.reading ⟨10, 4, 14, toBits p, toBits d,
        decide (weave layoutCfg10 (toBits p) (toBits d) = eccEncode 10 (toBits d))⟩), msgOut := none, txBlocks := [] }) ∧
    (∀ (p : BitVec 4) (d : BitVec 11), exec (.blockCfg11 p d) s = .next { s with
      result := .done (.reading ⟨11, 4, 15, toBits p, toBits d,
        decide (weave layoutCfg11 (toBits p) (toBits d) = eccEncode 11 (toBits d))⟩), msgOut := none, txBlocks := [] }) ∧
    (∀ (p : BitVec 5) (d : BitVec 20), exec (.blockCfg20 p d) s = .next { s with
      result := .done (.reading ⟨20, 5, 25, toBits p, toBits d,
        decide (weave layoutCfg20 (toBits p) (toBits d) = eccEncode 20 (toBits d))⟩), msgOut := none, txBlocks := [] })

/-! ## Reassembler -/

/-- While FAULT.CODE ≠ 0, RSM.PUSH and RX.BLOCK are refused and write no state; every other operation answers as it does without
the fault (60_exceptions.md R186). -/
def Obligations.ReceivePathRefusedWhileFaulted : Prop :=
  ∀ s : State, s.faultCode ≠ .none →
    (∀ d, exec (.rsmPush d) s = .next { s with result := .refused, msgOut := none, txBlocks := [] }) ∧
    (∀ x, exec (.rxBlock x) s = .next { s with result := .refused, msgOut := none, txBlocks := [] }) ∧
    ∀ i : Instr, (∀ d, i ≠ .rsmPush d) → (∀ x, i ≠ .rxBlock x) →
      ∀ t : State, exec i { s with faultCode := .none, faultUnit := .none } = .next t →
        ∃ t' : State, exec i s = .next t' ∧ t'.result = t.result ∧ t'.msgOut = t.msgOut ∧ t'.txBlocks = t.txBlocks

/-- BufferOverflow is raised before the append: BUF and STATE are as before (45_reassembler.md R153, 60_exceptions.md R185 (b)). -/
def Obligations.PushOverflowLeavesTheBuffer : Prop :=
  ∀ (s : State) (d : Bits) (cap : Nat), s.faultCode = .none → d.length = s.msgBits.val →
    s.bufCap = some cap → cap < s.buf.length + s.msgBits.val →
    exec (.rsmPush d) s = .next { s with
      faultCode := .bufferOverflow, faultUnit := .rsm, result := .fault .bufferOverflow .rsm, msgOut := none,
      txBlocks := [] }

/-- The start test: at least five bits that do not begin with the delimiter latch FramingDesync; the bits stay, STATE does not change
(45_reassembler.md R151, R154). -/
def Obligations.PushWithoutStartDelimiterDesyncs : Prop :=
  ∀ (s : State) (d : Bits), s.faultCode = .none → d.length = s.msgBits.val → s.Fits d.length →
    s.fsm = .awaitingStart → 5 ≤ (s.buf ++ d).length → (s.buf ++ d).take 5 ≠ delim →
    exec (.rsmPush d) s = .next { s with
      buf := s.buf ++ d, faultCode := .framingDesync, faultUnit := .rsm, result := .fault .framingDesync .rsm,
      msgOut := none, txBlocks := [] }

/-- The pushes that only accumulate (45_reassembler.md R151): fewer than five bits while awaiting; a matched start without an end,
which enters InFrame; and in InFrame no end yet (R159: without an end the machine waits). -/
def Obligations.PushAccumulates : Prop :=
  ∀ (s : State) (d : Bits), s.faultCode = .none → d.length = s.msgBits.val → s.Fits d.length →
    (s.fsm = .awaitingStart → (s.buf ++ d).length < 5 →
      exec (.rsmPush d) s = .next { s with
        buf := s.buf ++ d, result := .done .nothing, msgOut := none, txBlocks := [] }) ∧
    (s.fsm = .awaitingStart → 5 ≤ (s.buf ++ d).length → (s.buf ++ d).take 5 = delim →
      ((s.buf ++ d).length < 10 ∨ ¬ delim <:+ s.buf ++ d) →
      exec (.rsmPush d) s = .next { s with
        fsm := .inFrame, buf := s.buf ++ d, result := .done .nothing, msgOut := none, txBlocks := [] }) ∧
    (s.fsm = .inFrame → ((s.buf ++ d).length < 10 ∨ ¬ delim <:+ s.buf ++ d) →
      exec (.rsmPush d) s = .next { s with
        buf := s.buf ++ d, result := .done .nothing, msgOut := none, txBlocks := [] })

/-- The push that completes a frame emits its text, clears the buffer and returns to AwaitingStart, also in the operation that saw the
start delimiter (45_reassembler.md R155, R157). -/
def Obligations.PushCompletesTheFrame : Prop :=
  ∀ (s : State) (d p q : Bits) (t : List Byte), s.faultCode = .none → d.length = s.msgBits.val → s.Fits d.length →
    s.buf ++ d = delim ++ p ++ delim → lineDecode s.lcTable p = .ok q → fromBinary q = .ok t →
    exec (.rsmPush d) s = .next { s with
      fsm := .awaitingStart, buf := [], result := .done (.text t), msgOut := some t, txBlocks := [] }

/-- A fault of the completion path is latched with the unit that raised it: the whole buffer stays, STATE is InFrame, nothing is emitted
(45_reassembler.md R155, 60_exceptions.md R185 (b), R187). -/
def Obligations.PushCompletionFaultKeepsTheBuffer : Prop :=
  ∀ (s : State) (d p : Bits) (f : Raised), s.faultCode = .none → d.length = s.msgBits.val → s.Fits d.length →
    s.buf ++ d = delim ++ p ++ delim →
    (lineDecode s.lcTable p = .error f ∨ ∃ q, lineDecode s.lcTable p = .ok q ∧ fromBinary q = .error f) →
    exec (.rsmPush d) s = .next { s with
      fsm := .inFrame, buf := s.buf ++ d, faultCode := f.code, faultUnit := f.unit, result := .fault f.code f.unit,
      msgOut := none, txBlocks := [] }

/-- The invariant of 45_reassembler.md R160 is kept by every step, from every state that has it. -/
def Obligations.StepKeepsTheReceiverInvariant : Prop :=
  ∀ s t : State, s.Inv → step s = .next t → t.Inv

/-- The invariant holds after reset (45_reassembler.md R160, 10_state.md R33). -/
def Obligations.ResetHasTheReceiverInvariant : Prop := State.reset.Inv

/-- A recorded fault stays, the same, until a reset clears it, empties the buffer without emission and returns to AwaitingStart
(60_exceptions.md R188, 10_state.md R23). -/
def Obligations.RecordedFaultStaysUntilReset : Prop :=
  ∀ s t : State, s.faultCode ≠ .none → step s = .next t →
    (t.faultCode = s.faultCode ∧ t.faultUnit = s.faultUnit) ∨
    (t.faultCode = .none ∧ t.faultUnit = .none ∧ t.buf = [] ∧ t.fsm = .awaitingStart ∧ t.msgOut = none ∧ ∃ rest,
      s.input = .resetInput :: rest ∨ ∃ p, s.input = .present p :: rest ∧ decode p = .ok .sysReset)

/-- Fault entry (60_exceptions.md R185): an operation that answers Fault(code, unit) emits nothing and hands over no block; RSM.PUSH and
RX.BLOCK record the same code and unit in FAULT, every other instruction writes no state at all. -/
def Obligations.FaultsAreLatchedOnTheReceivePathOnly : Prop :=
  ∀ (i : Instr) (s t : State) (c : FaultCode) (u : FaultUnit), exec i s = .next t → t.result = .fault c u →
    c ≠ .none ∧ u ≠ .none ∧ t.msgOut = none ∧ t.txBlocks = [] ∧
    (((∃ d, i = .rsmPush d) ∨ ∃ x, i = .rxBlock x) → t.faultCode = c ∧ t.faultUnit = u) ∧
    ((∀ d, i ≠ .rsmPush d) → (∀ x, i ≠ .rxBlock x) →
      t = { s with result := .fault c u, msgOut := none, txBlocks := [] })

/-- A message is emitted only by the RSM.PUSH, or the RX.BLOCK with its corrected and extracted data, that completes a frame with no fault
recorded: the buffer with those data is delimiter, payload, delimiter, and the message is the decoded payload. The buffer is empty and
STATE AwaitingStart before the next operation (45_reassembler.md R155, 20_memory.md R55 (c), 46_pipeline.md R175). -/
def Obligations.EmissionOnlyByACompletedFrame : Prop :=
  ∀ (i : Instr) (s t : State) (x : List Byte), exec i s = .next t → t.msgOut = some x →
    s.faultCode = .none ∧ t.result = .done (.text x) ∧ t.Ready ∧ ∃ d p q : Bits,
      (i = .rsmPush d ∨ ∃ b, i = .rxBlock b ∧ b.length = blockBits s.msgBits.val ∧
        d = eccExtract s.msgBits.val (eccCorrect s.msgBits.val b)) ∧
      d.length = s.msgBits.val ∧ s.Fits d.length ∧ s.buf ++ d = delim ++ p ++ delim ∧
      lineDecode s.lcTable p = .ok q ∧ fromBinary q = .ok x

/-! ## Pipelines -/

/-- TX.CHUNK cuts a string into the consecutive pieces of MSG_BITS bits, or faults with unit 7 (46_pipeline.md R170). -/
def Obligations.ChunkCutsWholePieces : Prop :=
  ∀ (f : Bits) (s : State),
    (f.length % s.msgBits.val ≠ 0 → exec (.txChunk f) s =
      .next { s with result := .fault .invariantViolation .pipeline, msgOut := none, txBlocks := [] }) ∧
    (f.length % s.msgBits.val = 0 → ∃ cs : List Bits,
      exec (.txChunk f) s = .next { s with result := .done (.list cs), msgOut := none, txBlocks := [] } ∧
      cs.flatten = f ∧ ∀ c ∈ cs, c.length = s.msgBits.val)

/-- TX.SEND never faults: the frame of the padded text, cut into chunks, each encoded, stands at RESULT and at TX_BLOCKS, with the
number of blocks of 46_pipeline.md R172. -/
def Obligations.SendTransmitsTheEncodedFrame : Prop :=
  ∀ (t : List Byte) (s : State), ∃ (pad : Nat) (e : Bits) (cs : List Bits),
    pad = minPadBits (8 * t.length) s.msgBits.val ∧
    lineEncode s.lcTable (zeros pad ++ toBinary t) = .ok e ∧
    cs.flatten = delim ++ e ++ delim ∧ (∀ c ∈ cs, c.length = s.msgBits.val) ∧
    cs.length = (5 * (8 * t.length + pad) / 4 + 10) / s.msgBits.val ∧
    exec (.txSend t) s = .next { s with
      result := .done (.list (cs.map (eccEncode s.msgBits.val))), msgOut := none,
      txBlocks := cs.map (eccEncode s.msgBits.val) }

/-- RX.BLOCK is refused while a fault is recorded, and else is ECC.COR, ECC.EXT and RSM.PUSH in one operation, with the state, the
outputs and the faults of that RSM.PUSH (46_pipeline.md R173). -/
def Obligations.ReceiveBlockPushesTheCorrectedData : Prop :=
  ∀ (x : Bits) (s : State), x.length = blockBits s.msgBits.val →
    (s.faultCode ≠ .none →
      exec (.rxBlock x) s = .next { s with result := .refused, msgOut := none, txBlocks := [] }) ∧
    (s.faultCode = .none → ∃ (c d : Bits) (u v t : State),
      exec (.eccCor x) s = .next u ∧ u.result = .done (.bits c) ∧
      exec (.eccExt c) s = .next v ∧ v.result = .done (.bits d) ∧
      exec (.rsmPush d) s = .next t ∧ exec (.rxBlock x) s = .next t)

/-- RX.BLOCK of a sent block with at most one flipped bit, in the middle of a frame, appends the chunk that was sent
(46_pipeline.md R173, 44_hamming.md R138). -/
def Obligations.ReceiveBlockAppendsTheSentChunk : Prop :=
  ∀ (d y : Bits) (s : State), s.faultCode = .none → d.length = s.msgBits.val → s.Fits d.length →
    AtMostOneFlip (eccEncode s.msgBits.val d) y → s.fsm = .inFrame →
    ((s.buf ++ d).length < 10 ∨ ¬ delim <:+ s.buf ++ d) →
    exec (.rxBlock y) s = .next { s with
      buf := s.buf ++ d, result := .done .nothing, msgOut := none, txBlocks := [] }

/-- With LC_TABLE_STD no false end detection can happen: the delimiter ends no proper beginning of a frame of ten bits or more, at any
offset (45_reassembler.md R158, 30_encoding.md R63 (b)). -/
def Obligations.StandardTableHasNoFalseEnd : Prop :=
  ∀ (m : MsgBits) (t : List Byte) (f : Bits), sendFrame lcTableStd m.val t = .ok f →
    ∀ k, 10 ≤ k → k < f.length → last (f.take k) 5 ≠ delim

/-- The end-to-end law (46_pipeline.md R174): a receiver ready for a frame, with the sender's MSG_BITS and table, that performs RX.BLOCK
on the sent blocks, each with at most one flipped bit, answers Done to all but the last and emits the text, without its zero bytes,
at the last; then it is ready again. The premise that no false end detection occurs is the rule's. The frame must fit the buffer
(00_scope.md R11). -/
def Obligations.SentTextIsEmittedByTheReceiver : Prop :=
  ∀ (sender sent s : State) (t : List Byte) (f : Bits) (ys : List Bits),
    sender.msgBits = s.msgBits → sender.lcTable = s.lcTable → s.Ready →
    exec (.txSend t) sender = .next sent → List.Forall₂ AtMostOneFlip sent.txBlocks ys →
    sendFrame s.lcTable s.msgBits.val t = .ok f → NoFalseEnd s.msgBits.val f → s.Fits f.length →
    ∃ (before : List State) (final : State),
      receive s ys = before ++ [final] ∧ before.length + 1 = sent.txBlocks.length ∧
      (∀ u ∈ before, u.result = .done .nothing ∧ u.msgOut = none) ∧
      final.result = .done (.text (t.filter (· ≠ 0#8))) ∧ final.msgOut = some (t.filter (· ≠ 0#8)) ∧ final.Ready

/-! ## The level indications -/

/-- The two level indications (60_exceptions.md R195, 10_state.md R29 (b), (c)): after a step MSG_VALID is true exactly when that step
performed an operation that emitted, so nothing that comes after it leaves it true; the other is FAULT.CODE ≠ 0. That a step with
nothing presented, or one that drives CFG.MSG_BITS, is where the end of the operation before it shows is the model's (log 4). -/
def Obligations.MsgValidOnlyForTheEmittingOperation : Prop :=
  (∀ s t : State, step s = .next t →
    (t.msgValid = true ↔ ∃ (p : Packet) (rest : List Request) (i : Instr) (x : List Byte),
      s.input = .present p :: rest ∧ decode p = .ok i ∧ exec i { s with input := rest } = .next t ∧
      ((∃ d, i = .rsmPush d) ∨ ∃ b, i = .rxBlock b) ∧ t.result = .done (.text x) ∧ t.msgOut = some x)) ∧
  ∀ s : State, s.faulted = true ↔ s.faultCode.code ≠ 0#3
end

