-- ==== Sys2Proof/Laws/Bits.lean ====
section
/-! SUPPORT. The small lemmas of the bit-string operations (00_scope.md R13, 30_encoding.md R69). -/

namespace Sys2Proof.Machine

@[simp] theorem uint_nil : uint [] = 0 := rfl
@[simp] theorem uint_cons (b : Bool) (s : Bits) : uint (b :: s) = b.toNat * 2 ^ s.length + uint s := rfl

@[simp] theorem bitsN_length (N v : Nat) : (bitsN N v).length = N := by simp [bitsN]
@[simp] theorem zeros_length (k : Nat) : (zeros k).length = k := by simp [zeros]
@[simp] theorem toBits_length {w : Nat} (v : BitVec w) : (toBits v).length = w := by simp [toBits]

/-- A string of `len` bits writes a number below `2^len`. -/
theorem uint_lt (s : Bits) : uint s < 2 ^ s.length := by
  induction s with
  | nil => simp
  | cons b s ih =>
    have hb : b.toNat ≤ 1 := Bool.toNat_le b
    have hm : b.toNat * 2 ^ s.length ≤ 2 ^ s.length := by nlinarith [Nat.two_pow_pos s.length]
    rw [uint_cons, List.length_cons, Nat.pow_succ]
    omega

theorem uint_append (s t : Bits) : uint (s ++ t) = uint s * 2 ^ t.length + uint t := by
  induction s with
  | nil => simp
  | cons b s ih =>
    rw [List.cons_append, uint_cons, ih, uint_cons, List.length_append, Nat.pow_add]
    ring

theorem uint_zeros (k : Nat) : uint (zeros k) = 0 := by
  induction k with
  | zero => rfl
  | succ k ih => simpa [zeros, List.replicate_succ] using ih

/-- The first bit of `bits_(N+1)(v)` is the bit of weight `2^N`. -/
theorem bitsN_succ (N v : Nat) : bitsN (N + 1) v = v.testBit N :: bitsN N v := by
  refine List.ext_getElem (by simp) fun i h₁ h₂ => ?_
  cases i with
  | zero => simp [bitsN]
  | succ i =>
    have hi : N - (i + 1) = N - 1 - i := by omega
    simp [bitsN, hi]

/-- `uint(bits_N(v)) = v` for `v < 2^N` (00_scope.md R13). -/
theorem uint_bitsN (N v : Nat) : uint (bitsN N v) = v % 2 ^ N := by
  induction N with
  | zero => simp [bitsN, Nat.mod_one]
  | succ N ih =>
    rw [bitsN_succ, uint_cons, bitsN_length, ih, Nat.toNat_testBit, Nat.mod_pow_succ]
    ring

/-- Two strings of one length that write one number are equal. -/
theorem uint_inj {s t : Bits} (hl : s.length = t.length) (h : uint s = uint t) : s = t := by
  induction s generalizing t with
  | nil => exact (List.length_eq_zero_iff.mp hl.symm).symm
  | cons a s ih =>
    cases t with
    | nil => simp at hl
    | cons b t =>
      have hl' : s.length = t.length := by simpa using hl
      have hs := uint_lt s
      have ht := uint_lt t
      rw [uint_cons, uint_cons, hl'] at h
      rw [hl'] at hs
      have hab : a = b := by
        cases a <;> cases b <;> simp_all
        all_goals omega
      subst hab
      rw [ih hl' (by omega)]

/-- `bits_N(uint(s)) = s` for a string of `N` bits (00_scope.md R13). -/
theorem bitsN_uint (s : Bits) : bitsN s.length (uint s) = s :=
  uint_inj (by simp) (by rw [uint_bitsN, Nat.mod_eq_of_lt (uint_lt s)])

@[simp] theorem uint_toBits {w : Nat} (v : BitVec w) : uint (toBits v) = v.toNat := by
  rw [toBits, uint_bitsN, Nat.mod_eq_of_lt v.isLt]

@[simp] theorem ofBits_toBits {w : Nat} (v : BitVec w) : ofBits w (toBits v) = v := by
  rw [ofBits, uint_toBits, BitVec.ofNat_toNat, BitVec.setWidth_eq]

theorem toBits_ofBits {w : Nat} (s : Bits) (h : s.length = w) : toBits (ofBits w s) = s := by
  subst h
  rw [toBits, ofBits, BitVec.toNat_ofNat, Nat.mod_eq_of_lt (uint_lt s), bitsN_uint]

theorem toBits_inj {w : Nat} {u v : BitVec w} (h : toBits u = toBits v) : u = v := by
  rw [← ofBits_toBits u, h, ofBits_toBits]

theorem slice_length (s : Bits) (a b : Nat) (h : b ≤ s.length) : (slice s a b).length = b - a := by
  simp only [slice, List.length_take, List.length_drop]
  omega

theorem first_eq_take (s : Bits) (k : Nat) : first s k = s.take k := rfl

theorem last_eq_drop (s : Bits) (k : Nat) : last s k = s.drop (s.length - k) := by
  rw [last, slice]
  exact List.take_of_length_le (by simp)

@[simp] theorem groups_length (w : Nat) (s : Bits) : (groups w s).length = s.length / w := by simp [groups]

theorem groups_getElem (w : Nat) (s : Bits) (j : Nat) (h : j < (groups w s).length) :
    (groups w s)[j] = slice s (w * j) (w * j + w) := by simp [groups]

/-- Every piece has the width of the grouping (30_encoding.md R69). -/
theorem length_of_mem_groups {w : Nat} {s g : Bits} (h : g ∈ groups w s) : g.length = w := by
  obtain ⟨j, hj, rfl⟩ := List.mem_map.mp h
  have hj' : j < s.length / w := List.mem_range.mp hj
  have hle : w * j + w ≤ s.length := by
    have hd : w * (s.length / w) ≤ s.length := Nat.mul_div_le _ _
    have hm : w * (j + 1) ≤ w * (s.length / w) := Nat.mul_le_mul_left w hj'
    rw [Nat.mul_add, Nat.mul_one] at hm
    omega
  rw [slice_length _ _ _ hle]
  omega

theorem groups_nil (w : Nat) : groups w [] = [] := by simp [groups]

/-- The first piece of a grouping, then the grouping of the rest. -/
theorem groups_append {w : Nat} (hw : 0 < w) (g s : Bits) (hg : g.length = w) :
    groups w (g ++ s) = g :: groups w s := by
  have hl : (g ++ s).length / w = s.length / w + 1 := by
    rw [List.length_append, hg, Nat.add_comm, Nat.add_div_right _ hw]
  unfold groups
  rw [hl, List.range_succ_eq_map, List.map_cons, List.map_map]
  have h0 : slice (g ++ s) (w * 0) (w * 0 + w) = g := by simp [slice, ← hg]
  rw [h0]
  congr 1
  refine List.map_congr_left fun j _ => ?_
  have hj : w * (j + 1) = g.length + w * j := by rw [hg]; ring
  simp only [Function.comp, Nat.succ_eq_add_one, slice, hj, List.drop_append]
  have hd : g.drop (g.length + w * j) = [] := List.drop_eq_nil_of_le (by omega)
  rw [hd, List.nil_append]
  have e1 : g.length + w * j - g.length = w * j := by omega
  rw [e1]
  congr 1
  omega

/-- Grouping undoes joining pieces of the width of the grouping. -/
theorem groups_flatten {w : Nat} (hw : 0 < w) (gs : List Bits) (h : ∀ g ∈ gs, g.length = w) :
    groups w gs.flatten = gs := by
  induction gs with
  | nil => exact groups_nil w
  | cons g gs ih =>
    rw [List.flatten_cons, groups_append hw g _ (h g (by simp)), ih fun x hx => h x (by simp [hx])]

theorem flatten_length {w : Nat} (gs : List Bits) (h : ∀ g ∈ gs, g.length = w) :
    gs.flatten.length = w * gs.length := by
  induction gs with
  | nil => simp
  | cons g gs ih =>
    rw [List.flatten_cons, List.length_append, h g (by simp), ih fun x hx => h x (by simp [hx]), List.length_cons]
    ring

/-- Joining the pieces gives the string back when its length is a multiple of the width (30_encoding.md R69). -/
theorem flatten_groups {w : Nat} (hw : 0 < w) (s : Bits) (h : s.length % w = 0) : (groups w s).flatten = s := by
  obtain ⟨k, hk⟩ := Nat.dvd_of_mod_eq_zero h
  induction k generalizing s with
  | zero =>
    have : s = [] := List.length_eq_zero_iff.mp (by omega)
    subst this
    simp [groups_nil]
  | succ k ih =>
    have hsplit : s.take w ++ s.drop w = s := List.take_append_drop w s
    have hlen : s.length = w * k + w := by rw [hk]; ring
    have ht : (s.take w).length = w := by rw [List.length_take]; omega
    have hd : (s.drop w).length = w * k := by rw [List.length_drop]; omega
    have := ih (s.drop w) (by rw [hd]; exact Nat.mul_mod_right w k) hd
    rw [← hsplit, groups_append hw _ _ ht, List.flatten_cons, this]

end Sys2Proof.Machine
end

