-- ==== Sys2Proof/Laws/Codec.lean ====
section
/-! SUPPORT. The small lemmas of the block layouts' fields (30_encoding.md R65, R67). -/

namespace Sys2Proof

@[simp] theorem weave_length (l : List Role) (p d : Bits) : (weave l p d).length = l.length := by
  induction l generalizing p d with
  | nil => rfl
  | cons k l ih => cases k <;> simp [weave, ih]

/-- Reading the parity field of a woven block gives the parity bits back. -/
theorem pick_parity_weave (l : List Role) (p d : Bits) (h : p.length = l.count .parity) :
    pick .parity l (weave l p d) = p := by
  induction l generalizing p d with
  | nil => exact (List.length_eq_zero_iff.mp (by simpa using h)).symm
  | cons k l ih =>
    cases k with
    | parity =>
      cases p with
      | nil => simp at h
      | cons b p => simp [weave, pick, ih p d (by simpa using h)]
    | data => simp [weave, pick, ih p d.tail (by simpa using h)]

/-- Reading the data field of a woven block gives the data bits back. -/
theorem pick_data_weave (l : List Role) (p d : Bits) (h : d.length = l.count .data) :
    pick .data l (weave l p d) = d := by
  induction l generalizing p d with
  | nil => exact (List.length_eq_zero_iff.mp (by simpa using h)).symm
  | cons k l ih =>
    cases k with
    | parity => simp [weave, pick, ih p.tail d (by simpa using h)]
    | data =>
      cases d with
      | nil => simp at h
      | cons b d => simp [weave, pick, ih p d (by simpa using h)]

/-- Weaving the two fields of a block gives the block back. -/
theorem weave_pick (l : List Role) (b : Bits) (h : b.length = l.length) :
    weave l (pick .parity l b) (pick .data l b) = b := by
  induction l generalizing b with
  | nil => exact (List.length_eq_zero_iff.mp (by simpa using h)).symm
  | cons k l ih =>
    cases b with
    | nil => simp at h
    | cons x b => cases k <;> simp [weave, pick, ih b (by simpa using h)]

theorem pick_length (role : Role) (l : List Role) (b : Bits) (h : b.length = l.length) :
    (pick role l b).length = l.count role := by
  induction l generalizing b with
  | nil => cases b <;> simp [pick]
  | cons k l ih =>
    cases b with
    | nil => simp at h
    | cons x b =>
      have := ih b (by simpa using h)
      by_cases hk : k = role
      · simp [pick, hk, this]
      · simp [pick, hk, this]

end Sys2Proof
end

