-- ==== Sys2Proof/Laws/Hamming.lean ====
section
/-! SUPPORT. The small lemmas of the Hamming arithmetic (44_hamming.md). -/

namespace Sys2Proof.Machine

/-- `ispow2(i)` (00_scope.md R15). -/
theorem isPow2_iff (i : Nat) : isPow2 i = true ↔ ∃ j, i = 2 ^ j := by
  constructor
  · intro h
    exact ⟨i.log2, (eq_of_beq h).symm⟩
  · rintro ⟨j, rfl⟩
    simp [isPow2, Nat.log2_two_pow]

@[simp] theorem positions_length (n : Nat) : (positions n).length = n := by simp [positions]

theorem mem_positions {i n : Nat} : i ∈ positions n ↔ 1 ≤ i ∧ i ≤ n := by
  simp only [positions, List.mem_range'_1]
  omega

theorem mem_parityPositions {p r : Nat} : p ∈ parityPositions r ↔ ∃ j < r, p = 2 ^ j := by
  simp only [parityPositions, List.mem_map, List.mem_range]
  exact ⟨fun ⟨j, hj, e⟩ => ⟨j, hj, e.symm⟩, fun ⟨j, hj, e⟩ => ⟨j, hj, e.symm⟩⟩

theorem mem_dataPositions {i n : Nat} : i ∈ dataPositions n ↔ (1 ≤ i ∧ i ≤ n) ∧ isPow2 i = false := by
  simp [dataPositions, mem_positions]

theorem mem_cov {i p n : Nat} : i ∈ cov p n ↔ (1 ≤ i ∧ i ≤ n) ∧ i &&& p ≠ 0 ∧ i ≠ p := by
  simp [cov, mem_positions]

/-- The bit at a position of a block written position by position. -/
theorem bitAt_map_positions (f : Nat → Bool) {i n : Nat} (h₁ : 1 ≤ i) (h₂ : i ≤ n) :
    bitAt ((positions n).map f) i = f i := by
  have hi : i - 1 < ((positions n).map f).length := by simp; omega
  have he : 1 + (i - 1) = i := by omega
  rw [bitAt, List.getD_eq_getElem _ _ hi]
  simp [positions, he]

/-- Two blocks of `n` bits with the same bit at every position are the same block. -/
theorem block_ext {a b : Bits} {n : Nat} (ha : a.length = n) (hb : b.length = n)
    (h : ∀ i, 1 ≤ i → i ≤ n → bitAt a i = bitAt b i) : a = b := by
  refine List.ext_getElem (by rw [ha, hb]) fun i h₁ h₂ => ?_
  have := h (i + 1) (by omega) (by omega)
  rwa [bitAt, bitAt, Nat.add_sub_cancel, List.getD_eq_getElem _ _ h₁, List.getD_eq_getElem _ _ h₂] at this

@[simp] theorem placeData_length (d : Bits) (n : Nat) : (placeData d n).length = n := by simp [placeData]

@[simp] theorem eccEncode_length (m : Nat) (d : Bits) : (eccEncode m d).length = blockBits m := by simp [eccEncode]

@[simp] theorem assemble_length (n : Nat) (p d : Bits) : (assemble n p d).length = n := by simp [assemble]

@[simp] theorem flipAt_length (b : Bits) (i : Nat) : (flipAt b i).length = b.length := by simp [flipAt]

/-- Flipping a position inverts that bit and no other. -/
theorem bitAt_flipAt (b : Bits) {i k : Nat} (hi : 1 ≤ i) (hib : i ≤ b.length) (hk : 1 ≤ k) :
    bitAt (flipAt b i) k = if k = i then !bitAt b i else bitAt b k := by
  by_cases h : k = i
  · subst h
    have : k - 1 < b.length := by omega
    rw [if_pos rfl, bitAt, flipAt, List.getD_eq_getElem _ _ (by simpa using this), List.getElem_set_self]
  · have : i - 1 ≠ k - 1 := by omega
    rw [if_neg h, bitAt, flipAt, List.getD_eq_getElem?_getD, List.getElem?_set_ne this, bitAt,
      List.getD_eq_getElem?_getD]

@[simp] theorem eccCorrect_length (m : Nat) (b : Bits) : (eccCorrect m b).length = b.length := by
  simp only [eccCorrect]
  split
  · simp
  · rfl

/-- `Cov(p)` holds no parity position: two different powers of two share no bit (30_encoding.md R66). -/
theorem isPow2_of_mem_cov {p i n : Nat} (hp : isPow2 p = true) (h : i ∈ cov p n) : isPow2 i = false := by
  obtain ⟨-, hand, hne⟩ := mem_cov.mp h
  by_contra hc
  obtain ⟨a, rfl⟩ := (isPow2_iff i).mp (by simpa using hc)
  obtain ⟨b, rfl⟩ := (isPow2_iff p).mp hp
  refine hand ?_
  have hab : a ≠ b := fun e => hne (by rw [e])
  refine Nat.eq_of_testBit_eq fun k => ?_
  simp only [Nat.testBit_and, Nat.testBit_two_pow, Nat.zero_testBit]
  by_cases h1 : a = k
  · by_cases h2 : b = k
    · exact absurd (h1.trans h2.symm) hab
    · simp [h2]
  · simp [h1]

end Sys2Proof.Machine
end

