-- ==== Sys2Proof/Laws/State.lean ====
section
/-! SUPPORT. One lemma per field per update of State, true by rfl. -/

namespace Sys2Proof.Machine

variable (s : State)

@[simp] theorem State.finish_fsm (r : Result) : (s.finish r).fsm = s.fsm := rfl
@[simp] theorem State.finish_buf (r : Result) : (s.finish r).buf = s.buf := rfl
@[simp] theorem State.finish_faultCode (r : Result) : (s.finish r).faultCode = s.faultCode := rfl
@[simp] theorem State.finish_faultUnit (r : Result) : (s.finish r).faultUnit = s.faultUnit := rfl
@[simp] theorem State.finish_msgBits (r : Result) : (s.finish r).msgBits = s.msgBits := rfl
@[simp] theorem State.finish_cfgMsgBits (r : Result) : (s.finish r).cfgMsgBits = s.cfgMsgBits := rfl
@[simp] theorem State.finish_lcTable (r : Result) : (s.finish r).lcTable = s.lcTable := rfl
@[simp] theorem State.finish_bufCap (r : Result) : (s.finish r).bufCap = s.bufCap := rfl
@[simp] theorem State.finish_input (r : Result) : (s.finish r).input = s.input := rfl
@[simp] theorem State.finish_result (r : Result) : (s.finish r).result = r := rfl
@[simp] theorem State.finish_msgOut (r : Result) : (s.finish r).msgOut = none := rfl
@[simp] theorem State.finish_txBlocks (r : Result) : (s.finish r).txBlocks = [] := rfl

@[simp] theorem State.returns_fsm (v : Value) : (s.returns v).fsm = s.fsm := rfl
@[simp] theorem State.returns_buf (v : Value) : (s.returns v).buf = s.buf := rfl
@[simp] theorem State.returns_faultCode (v : Value) : (s.returns v).faultCode = s.faultCode := rfl
@[simp] theorem State.returns_faultUnit (v : Value) : (s.returns v).faultUnit = s.faultUnit := rfl
@[simp] theorem State.returns_msgBits (v : Value) : (s.returns v).msgBits = s.msgBits := rfl
@[simp] theorem State.returns_cfgMsgBits (v : Value) : (s.returns v).cfgMsgBits = s.cfgMsgBits := rfl
@[simp] theorem State.returns_lcTable (v : Value) : (s.returns v).lcTable = s.lcTable := rfl
@[simp] theorem State.returns_bufCap (v : Value) : (s.returns v).bufCap = s.bufCap := rfl
@[simp] theorem State.returns_input (v : Value) : (s.returns v).input = s.input := rfl
@[simp] theorem State.returns_result (v : Value) : (s.returns v).result = .done v := rfl
@[simp] theorem State.returns_msgOut (v : Value) : (s.returns v).msgOut = none := rfl
@[simp] theorem State.returns_txBlocks (v : Value) : (s.returns v).txBlocks = [] := rfl

@[simp] theorem State.refuse_fsm : (s.refuse).fsm = s.fsm := rfl
@[simp] theorem State.refuse_buf : (s.refuse).buf = s.buf := rfl
@[simp] theorem State.refuse_faultCode : (s.refuse).faultCode = s.faultCode := rfl
@[simp] theorem State.refuse_faultUnit : (s.refuse).faultUnit = s.faultUnit := rfl
@[simp] theorem State.refuse_msgBits : (s.refuse).msgBits = s.msgBits := rfl
@[simp] theorem State.refuse_cfgMsgBits : (s.refuse).cfgMsgBits = s.cfgMsgBits := rfl
@[simp] theorem State.refuse_lcTable : (s.refuse).lcTable = s.lcTable := rfl
@[simp] theorem State.refuse_bufCap : (s.refuse).bufCap = s.bufCap := rfl
@[simp] theorem State.refuse_input : (s.refuse).input = s.input := rfl
@[simp] theorem State.refuse_result : (s.refuse).result = .refused := rfl
@[simp] theorem State.refuse_msgOut : (s.refuse).msgOut = none := rfl
@[simp] theorem State.refuse_txBlocks : (s.refuse).txBlocks = [] := rfl

@[simp] theorem State.raiseStateless_fsm (f : Raised) : (s.raiseStateless f).fsm = s.fsm := rfl
@[simp] theorem State.raiseStateless_buf (f : Raised) : (s.raiseStateless f).buf = s.buf := rfl
@[simp] theorem State.raiseStateless_faultCode (f : Raised) : (s.raiseStateless f).faultCode = s.faultCode := rfl
@[simp] theorem State.raiseStateless_faultUnit (f : Raised) : (s.raiseStateless f).faultUnit = s.faultUnit := rfl
@[simp] theorem State.raiseStateless_msgBits (f : Raised) : (s.raiseStateless f).msgBits = s.msgBits := rfl
@[simp] theorem State.raiseStateless_cfgMsgBits (f : Raised) : (s.raiseStateless f).cfgMsgBits = s.cfgMsgBits := rfl
@[simp] theorem State.raiseStateless_lcTable (f : Raised) : (s.raiseStateless f).lcTable = s.lcTable := rfl
@[simp] theorem State.raiseStateless_bufCap (f : Raised) : (s.raiseStateless f).bufCap = s.bufCap := rfl
@[simp] theorem State.raiseStateless_input (f : Raised) : (s.raiseStateless f).input = s.input := rfl
@[simp] theorem State.raiseStateless_result (f : Raised) : (s.raiseStateless f).result = .fault f.code f.unit := rfl
@[simp] theorem State.raiseStateless_msgOut (f : Raised) : (s.raiseStateless f).msgOut = none := rfl
@[simp] theorem State.raiseStateless_txBlocks (f : Raised) : (s.raiseStateless f).txBlocks = [] := rfl

@[simp] theorem State.raiseLatched_fsm (f : Raised) : (s.raiseLatched f).fsm = s.fsm := rfl
@[simp] theorem State.raiseLatched_buf (f : Raised) : (s.raiseLatched f).buf = s.buf := rfl
@[simp] theorem State.raiseLatched_faultCode (f : Raised) : (s.raiseLatched f).faultCode = f.code := rfl
@[simp] theorem State.raiseLatched_faultUnit (f : Raised) : (s.raiseLatched f).faultUnit = f.unit := rfl
@[simp] theorem State.raiseLatched_msgBits (f : Raised) : (s.raiseLatched f).msgBits = s.msgBits := rfl
@[simp] theorem State.raiseLatched_cfgMsgBits (f : Raised) : (s.raiseLatched f).cfgMsgBits = s.cfgMsgBits := rfl
@[simp] theorem State.raiseLatched_lcTable (f : Raised) : (s.raiseLatched f).lcTable = s.lcTable := rfl
@[simp] theorem State.raiseLatched_bufCap (f : Raised) : (s.raiseLatched f).bufCap = s.bufCap := rfl
@[simp] theorem State.raiseLatched_input (f : Raised) : (s.raiseLatched f).input = s.input := rfl
@[simp] theorem State.raiseLatched_result (f : Raised) : (s.raiseLatched f).result = .fault f.code f.unit := rfl
@[simp] theorem State.raiseLatched_msgOut (f : Raised) : (s.raiseLatched f).msgOut = none := rfl
@[simp] theorem State.raiseLatched_txBlocks (f : Raised) : (s.raiseLatched f).txBlocks = [] := rfl

@[simp] theorem State.emit_fsm (t : List Byte) : (s.emit t).fsm = .awaitingStart := rfl
@[simp] theorem State.emit_buf (t : List Byte) : (s.emit t).buf = [] := rfl
@[simp] theorem State.emit_faultCode (t : List Byte) : (s.emit t).faultCode = s.faultCode := rfl
@[simp] theorem State.emit_faultUnit (t : List Byte) : (s.emit t).faultUnit = s.faultUnit := rfl
@[simp] theorem State.emit_msgBits (t : List Byte) : (s.emit t).msgBits = s.msgBits := rfl
@[simp] theorem State.emit_cfgMsgBits (t : List Byte) : (s.emit t).cfgMsgBits = s.cfgMsgBits := rfl
@[simp] theorem State.emit_lcTable (t : List Byte) : (s.emit t).lcTable = s.lcTable := rfl
@[simp] theorem State.emit_bufCap (t : List Byte) : (s.emit t).bufCap = s.bufCap := rfl
@[simp] theorem State.emit_input (t : List Byte) : (s.emit t).input = s.input := rfl
@[simp] theorem State.emit_result (t : List Byte) : (s.emit t).result = .done (.text t) := rfl
@[simp] theorem State.emit_msgOut (t : List Byte) : (s.emit t).msgOut = some t := rfl
@[simp] theorem State.emit_txBlocks (t : List Byte) : (s.emit t).txBlocks = [] := rfl

@[simp] theorem State.transmit_fsm (bs : List Bits) : (s.transmit bs).fsm = s.fsm := rfl
@[simp] theorem State.transmit_buf (bs : List Bits) : (s.transmit bs).buf = s.buf := rfl
@[simp] theorem State.transmit_faultCode (bs : List Bits) : (s.transmit bs).faultCode = s.faultCode := rfl
@[simp] theorem State.transmit_faultUnit (bs : List Bits) : (s.transmit bs).faultUnit = s.faultUnit := rfl
@[simp] theorem State.transmit_msgBits (bs : List Bits) : (s.transmit bs).msgBits = s.msgBits := rfl
@[simp] theorem State.transmit_cfgMsgBits (bs : List Bits) : (s.transmit bs).cfgMsgBits = s.cfgMsgBits := rfl
@[simp] theorem State.transmit_lcTable (bs : List Bits) : (s.transmit bs).lcTable = s.lcTable := rfl
@[simp] theorem State.transmit_bufCap (bs : List Bits) : (s.transmit bs).bufCap = s.bufCap := rfl
@[simp] theorem State.transmit_input (bs : List Bits) : (s.transmit bs).input = s.input := rfl
@[simp] theorem State.transmit_result (bs : List Bits) : (s.transmit bs).result = .done (.list bs) := rfl
@[simp] theorem State.transmit_msgOut (bs : List Bits) : (s.transmit bs).msgOut = none := rfl
@[simp] theorem State.transmit_txBlocks (bs : List Bits) : (s.transmit bs).txBlocks = bs := rfl

@[simp] theorem State.restart_fsm : (s.restart).fsm = .awaitingStart := rfl
@[simp] theorem State.restart_buf : (s.restart).buf = [] := rfl
@[simp] theorem State.restart_faultCode : (s.restart).faultCode = .none := rfl
@[simp] theorem State.restart_faultUnit : (s.restart).faultUnit = .none := rfl
@[simp] theorem State.restart_msgBits : (s.restart).msgBits = s.cfgMsgBits := rfl
@[simp] theorem State.restart_cfgMsgBits : (s.restart).cfgMsgBits = s.cfgMsgBits := rfl
@[simp] theorem State.restart_lcTable : (s.restart).lcTable = s.lcTable := rfl
@[simp] theorem State.restart_bufCap : (s.restart).bufCap = s.bufCap := rfl
@[simp] theorem State.restart_input : (s.restart).input = s.input := rfl
@[simp] theorem State.restart_result : (s.restart).result = .done .nothing := rfl
@[simp] theorem State.restart_msgOut : (s.restart).msgOut = none := rfl
@[simp] theorem State.restart_txBlocks : (s.restart).txBlocks = [] := rfl

@[simp] theorem State.withInput_fsm (rs : List Request) : (s.withInput rs).fsm = s.fsm := rfl
@[simp] theorem State.withInput_buf (rs : List Request) : (s.withInput rs).buf = s.buf := rfl
@[simp] theorem State.withInput_faultCode (rs : List Request) : (s.withInput rs).faultCode = s.faultCode := rfl
@[simp] theorem State.withInput_faultUnit (rs : List Request) : (s.withInput rs).faultUnit = s.faultUnit := rfl
@[simp] theorem State.withInput_msgBits (rs : List Request) : (s.withInput rs).msgBits = s.msgBits := rfl
@[simp] theorem State.withInput_cfgMsgBits (rs : List Request) : (s.withInput rs).cfgMsgBits = s.cfgMsgBits := rfl
@[simp] theorem State.withInput_lcTable (rs : List Request) : (s.withInput rs).lcTable = s.lcTable := rfl
@[simp] theorem State.withInput_bufCap (rs : List Request) : (s.withInput rs).bufCap = s.bufCap := rfl
@[simp] theorem State.withInput_input (rs : List Request) : (s.withInput rs).input = rs := rfl
@[simp] theorem State.withInput_result (rs : List Request) : (s.withInput rs).result = s.result := rfl
@[simp] theorem State.withInput_msgOut (rs : List Request) : (s.withInput rs).msgOut = s.msgOut := rfl
@[simp] theorem State.withInput_txBlocks (rs : List Request) : (s.withInput rs).txBlocks = s.txBlocks := rfl

@[simp] theorem State.append_fsm (d : Bits) : (s.append d).fsm = s.fsm := rfl
@[simp] theorem State.append_buf (d : Bits) : (s.append d).buf = s.buf ++ d := rfl
@[simp] theorem State.append_faultCode (d : Bits) : (s.append d).faultCode = s.faultCode := rfl
@[simp] theorem State.append_faultUnit (d : Bits) : (s.append d).faultUnit = s.faultUnit := rfl
@[simp] theorem State.append_msgBits (d : Bits) : (s.append d).msgBits = s.msgBits := rfl
@[simp] theorem State.append_cfgMsgBits (d : Bits) : (s.append d).cfgMsgBits = s.cfgMsgBits := rfl
@[simp] theorem State.append_lcTable (d : Bits) : (s.append d).lcTable = s.lcTable := rfl
@[simp] theorem State.append_bufCap (d : Bits) : (s.append d).bufCap = s.bufCap := rfl
@[simp] theorem State.append_input (d : Bits) : (s.append d).input = s.input := rfl
@[simp] theorem State.append_result (d : Bits) : (s.append d).result = s.result := rfl
@[simp] theorem State.append_msgOut (d : Bits) : (s.append d).msgOut = s.msgOut := rfl
@[simp] theorem State.append_txBlocks (d : Bits) : (s.append d).txBlocks = s.txBlocks := rfl

@[simp] theorem State.enterFrame_fsm : (s.enterFrame).fsm = .inFrame := rfl
@[simp] theorem State.enterFrame_buf : (s.enterFrame).buf = s.buf := rfl
@[simp] theorem State.enterFrame_faultCode : (s.enterFrame).faultCode = s.faultCode := rfl
@[simp] theorem State.enterFrame_faultUnit : (s.enterFrame).faultUnit = s.faultUnit := rfl
@[simp] theorem State.enterFrame_msgBits : (s.enterFrame).msgBits = s.msgBits := rfl
@[simp] theorem State.enterFrame_cfgMsgBits : (s.enterFrame).cfgMsgBits = s.cfgMsgBits := rfl
@[simp] theorem State.enterFrame_lcTable : (s.enterFrame).lcTable = s.lcTable := rfl
@[simp] theorem State.enterFrame_bufCap : (s.enterFrame).bufCap = s.bufCap := rfl
@[simp] theorem State.enterFrame_input : (s.enterFrame).input = s.input := rfl
@[simp] theorem State.enterFrame_result : (s.enterFrame).result = s.result := rfl
@[simp] theorem State.enterFrame_msgOut : (s.enterFrame).msgOut = s.msgOut := rfl
@[simp] theorem State.enterFrame_txBlocks : (s.enterFrame).txBlocks = s.txBlocks := rfl

@[simp] theorem State.drive_fsm (m : MsgBits) : (s.drive m).fsm = s.fsm := rfl
@[simp] theorem State.drive_buf (m : MsgBits) : (s.drive m).buf = s.buf := rfl
@[simp] theorem State.drive_faultCode (m : MsgBits) : (s.drive m).faultCode = s.faultCode := rfl
@[simp] theorem State.drive_faultUnit (m : MsgBits) : (s.drive m).faultUnit = s.faultUnit := rfl
@[simp] theorem State.drive_msgBits (m : MsgBits) : (s.drive m).msgBits = s.msgBits := rfl
@[simp] theorem State.drive_cfgMsgBits (m : MsgBits) : (s.drive m).cfgMsgBits = m := rfl
@[simp] theorem State.drive_lcTable (m : MsgBits) : (s.drive m).lcTable = s.lcTable := rfl
@[simp] theorem State.drive_bufCap (m : MsgBits) : (s.drive m).bufCap = s.bufCap := rfl
@[simp] theorem State.drive_input (m : MsgBits) : (s.drive m).input = s.input := rfl
@[simp] theorem State.drive_result (m : MsgBits) : (s.drive m).result = s.result := rfl
@[simp] theorem State.drive_msgOut (m : MsgBits) : (s.drive m).msgOut = s.msgOut := rfl
@[simp] theorem State.drive_txBlocks (m : MsgBits) : (s.drive m).txBlocks = s.txBlocks := rfl

@[simp] theorem State.endOperation_fsm : s.endOperation.fsm = s.fsm := rfl
@[simp] theorem State.endOperation_buf : s.endOperation.buf = s.buf := rfl
@[simp] theorem State.endOperation_faultCode : s.endOperation.faultCode = s.faultCode := rfl
@[simp] theorem State.endOperation_faultUnit : s.endOperation.faultUnit = s.faultUnit := rfl
@[simp] theorem State.endOperation_msgBits : s.endOperation.msgBits = s.msgBits := rfl
@[simp] theorem State.endOperation_cfgMsgBits : s.endOperation.cfgMsgBits = s.cfgMsgBits := rfl
@[simp] theorem State.endOperation_lcTable : s.endOperation.lcTable = s.lcTable := rfl
@[simp] theorem State.endOperation_bufCap : s.endOperation.bufCap = s.bufCap := rfl
@[simp] theorem State.endOperation_input : s.endOperation.input = s.input := rfl
@[simp] theorem State.endOperation_result : s.endOperation.result = s.result := rfl
@[simp] theorem State.endOperation_msgOut : s.endOperation.msgOut = none := rfl
@[simp] theorem State.endOperation_txBlocks : s.endOperation.txBlocks = [] := rfl

end Sys2Proof.Machine
end

