-- ==== Sys2Proof/Laws/Ops.lean ====
section
/-! SUPPORT. For each shared operation, one lemma that says once everything it can do. -/

namespace Sys2Proof.Machine

variable (s : State)

@[simp] theorem State.answer_ok (v : Value) : s.answer (.ok v) = s.returns v := rfl
@[simp] theorem State.answer_error (f : Raised) : s.answer (.error f) = s.raiseStateless f := rfl

/-- A stateless operation that may fault changes the outputs alone. -/
theorem State.answer_frame (r : Except Raised Value) : ∃ q, s.answer r = s.finish q := by
  cases r with
  | ok v => exact ⟨_, rfl⟩
  | error f => exact ⟨_, rfl⟩

/-- The look-up of a symbol changes the outputs alone. -/
theorem State.lookUp_frame (w : Symbol) : ∃ q, s.lookUp w = s.finish q := by
  unfold State.lookUp
  split
  · exact ⟨_, rfl⟩
  · exact ⟨_, rfl⟩

@[simp] theorem State.overflows_none (h : s.bufCap = none) (k : Nat) : s.overflows k = false := by
  simp [State.overflows, h]

theorem State.overflows_some {cap : Nat} (h : s.bufCap = some cap) (k : Nat) :
    s.overflows k = true ↔ cap < s.buf.length + k := by
  simp [State.overflows, h]

/-- Without overflow the appended buffer fits its capacity (00_scope.md R11). -/
theorem State.fits_of_not_overflows {k : Nat} (h : s.overflows k = false) :
    ∀ cap, s.bufCap = some cap → s.buf.length + k ≤ cap := by
  intro cap hc
  simp only [State.overflows, hc, decide_eq_false_iff_not, not_lt] at h
  exact h

/-- Everything the end test can do (45_reassembler.md R155). -/
theorem State.endTest_cases :
    (¬ (s.fsm = .inFrame ∧ 10 ≤ s.buf.length ∧ last s.buf 5 = delim) ∧ s.endTest = s.returns .nothing) ∨
    ((s.fsm = .inFrame ∧ 10 ≤ s.buf.length ∧ last s.buf 5 = delim) ∧
      ((∃ t, completion s.lcTable s.buf = .ok t ∧ s.endTest = s.emit t) ∨
       (∃ f, completion s.lcTable s.buf = .error f ∧ s.endTest = s.raiseLatched f))) := by
  unfold State.endTest
  by_cases h : s.fsm = .inFrame ∧ 10 ≤ s.buf.length ∧ last s.buf 5 = delim
  · right
    refine ⟨h, ?_⟩
    rw [if_pos h]
    cases hc : completion s.lcTable s.buf with
    | ok t => exact .inl ⟨t, rfl, rfl⟩
    | error f => exact .inr ⟨f, rfl, rfl⟩
  · left
    exact ⟨h, if_neg h⟩

/-- Everything the start test can do (45_reassembler.md R154, R157). -/
theorem State.startTest_cases :
    (s.fsm = .awaitingStart ∧ 5 ≤ s.buf.length ∧ first s.buf 5 ≠ delim ∧
      s.startTest = s.raiseLatched ⟨.framingDesync, .rsm⟩) ∨
    (s.fsm = .awaitingStart ∧ 5 ≤ s.buf.length ∧ first s.buf 5 = delim ∧
      s.startTest = s.enterFrame.endTest) ∨
    (¬ (s.fsm = .awaitingStart ∧ 5 ≤ s.buf.length) ∧ s.startTest = s.endTest) := by
  unfold State.startTest
  by_cases h : s.fsm = .awaitingStart ∧ 5 ≤ s.buf.length
  · by_cases hd : first s.buf 5 = delim
    · exact .inr (.inl ⟨h.1, h.2, hd, by rw [if_pos h, if_neg (not_not_intro hd)]⟩)
    · exact .inl ⟨h.1, h.2, hd, by rw [if_pos h, if_pos hd]⟩
  · exact .inr (.inr ⟨h, if_neg h⟩)

/-- Everything the reassembler's step does before its tests (45_reassembler.md R153, 60_exceptions.md R187). -/
theorem State.push_cases (d : Bits) :
    ((s.faultCode ≠ .none ∨ d.length ≠ s.msgBits.val) ∧ s.push d = s.refuse) ∨
    (s.faultCode = .none ∧ d.length = s.msgBits.val ∧ s.overflows d.length = true ∧
      s.push d = s.raiseLatched ⟨.bufferOverflow, .rsm⟩) ∨
    (s.faultCode = .none ∧ d.length = s.msgBits.val ∧ s.overflows d.length = false ∧
      s.push d = (s.append d).startTest) := by
  unfold State.push
  by_cases hf : s.faultCode = .none
  · by_cases hl : d.length = s.msgBits.val
    · cases ho : s.overflows d.length with
      | true => exact .inr (.inl ⟨hf, hl, rfl, by simp [hf, hl]⟩)
      | false => exact .inr (.inr ⟨hf, hl, rfl, by simp [hf, hl]⟩)
    · exact .inl ⟨.inr hl, by simp [hf, hl]⟩
  · exact .inl ⟨.inl hf, by simp [hf]⟩

/-- A fault of the look-ups of LC.DEC has a code and a unit. -/
theorem decodePieces_error {t : LcTable} {ps : List Bits} {f : Raised} (h : decodePieces t ps = .error f) :
    f = ⟨.invalidCodeword, .lc⟩ := by
  induction ps with
  | nil => cases h
  | cons p ps ih =>
    simp only [decodePieces] at h
    split at h
    · cases h; rfl
    · split at h
      · rename_i e he
        cases h
        exact ih he
      · cases h

/-- Every fault LC.DEC can raise (42_linecoder.md R112). -/
theorem lineDecode_error {t : LcTable} {b : Bits} {f : Raised} (h : lineDecode t b = .error f) :
    f = ⟨.invariantViolation, .lc⟩ ∨ f = ⟨.invalidCodeword, .lc⟩ := by
  unfold lineDecode at h
  split at h
  · cases h; exact .inl rfl
  · exact .inr (decodePieces_error h)

/-- Every fault BC.FROMBIN can raise (40_bitcodec.md R91). -/
theorem fromBinary_error {b : Bits} {f : Raised} (h : fromBinary b = .error f) : f = ⟨.invariantViolation, .bc⟩ := by
  unfold fromBinary at h
  split at h
  · cases h; rfl
  · cases h

/-- Every fault FR.DEFRAME can raise (43_framer.md R121). -/
theorem deframe_error {b : Bits} {f : Raised} (h : deframe b = .error f) : f = ⟨.framingDesync, .fr⟩ := by
  unfold deframe at h
  repeat' split at h
  all_goals cases h
  all_goals rfl

/-- A fault of the completion path has a code and a unit (45_reassembler.md R155). -/
theorem completion_error {t : LcTable} {b : Bits} {f : Raised} (h : completion t b = .error f) :
    f.code ≠ .none ∧ f.unit ≠ .none := by
  unfold completion at h
  split at h
  · rename_i hd
    cases h
    rw [deframe_error hd]
    simp
  · split at h
    · rename_i hd
      cases h
      rcases lineDecode_error hd with rfl | rfl <;> simp
    · rw [fromBinary_error h]
      simp

/-- RX.BLOCK is a refusal or one reassembler step (46_pipeline.md R173). -/
theorem execRxBlock_cases (x : Bits) :
    ((s.faultCode ≠ .none ∨ x.length ≠ blockBits s.msgBits.val) ∧ execRxBlock x s = .next s.refuse) ∨
    (s.faultCode = .none ∧ x.length = blockBits s.msgBits.val ∧
      execRxBlock x s = .next (s.push (eccExtract s.msgBits.val (eccCorrect s.msgBits.val x)))) := by
  unfold execRxBlock
  by_cases hf : s.faultCode = .none
  · by_cases hl : x.length = blockBits s.msgBits.val
    · exact .inr ⟨hf, hl, by simp [hf, hl]⟩
    · exact .inl ⟨.inr hl, by simp [hf, hl]⟩
  · exact .inl ⟨.inl hf, by simp [hf]⟩

/-- Everything a step can do, by what the host has presented. -/
theorem step_cases :
    (s.input = [] ∧ step s = .next s.endOperation) ∨
    (∃ p rest i, s.input = .present p :: rest ∧ decode p = .ok i ∧ step s = exec i (s.withInput rest)) ∨
    (∃ p rest e, s.input = .present p :: rest ∧ decode p = .error e ∧ step s = .next (s.withInput rest).refuse) ∨
    (∃ rest, s.input = .resetInput :: rest ∧ step s = .next (s.withInput rest).restart) ∨
    (∃ m rest, s.input = .configure m :: rest ∧ step s = .next ((s.withInput rest).endOperation.drive m)) := by
  unfold step
  cases hi : s.input with
  | nil => exact .inl ⟨rfl, rfl⟩
  | cons r rest =>
    right
    cases r with
    | present p =>
      cases hd : decode p with
      | ok i => exact .inl ⟨p, rest, i, rfl, hd, by simp [State.perform, hd]⟩
      | error e => exact .inr (.inl ⟨p, rest, e, rfl, hd, by simp [State.perform, hd]⟩)
    | resetInput => exact .inr (.inr (.inl ⟨rest, rfl, rfl⟩))
    | configure m => exact .inr (.inr (.inr ⟨m, rest, rfl, rfl⟩))

end Sys2Proof.Machine
end

