-- ==== Sys2Proof/Laws/PerInstr.lean ====
section
/-! SUPPORT. Statements made per instruction: every encoding has the format, width and match of its row of spec/opcode_table.json. -/

namespace Sys2Proof.Laws

/-- A row of spec/opcode_table.json as it stands there: its format with its `match`, or the width of its layout. -/
inductive Row where
  | cmd (selector : Nat)
  | sym5 (word : Nat)
  | hblock (bits : Nat)
deriving DecidableEq, Repr

/-- The table's row of an instruction. -/
def rowOf : Instr → Row
  | .bcTobin _ => .cmd 0x10
  | .bcFrombin _ => .cmd 0x11
  | .padMin _ _ => .cmd 0x20
  | .padApply _ _ => .cmd 0x21
  | .lcEnc _ => .cmd 0x30
  | .lcDec _ => .cmd 0x31
  | .frFrame _ => .cmd 0x40
  | .frDeframe _ => .cmd 0x41
  | .eccRed _ => .cmd 0x50
  | .eccEnc _ => .cmd 0x51
  | .eccCor _ => .cmd 0x52
  | .eccExt _ => .cmd 0x53
  | .rsmPush _ => .cmd 0x60
  | .txChunk _ => .cmd 0x70
  | .txSend _ => .cmd 0x71
  | .rxBlock _ => .cmd 0x72
  | .sysReset => .cmd 0xF0
  | .symCtrl00000 => .sym5 0x00
  | .symDelim => .sym5 0x01
  | .symCtrl00010 => .sym5 0x02
  | .symCtrl00011 => .sym5 0x03
  | .symCtrl00100 => .sym5 0x04
  | .symCtrl00101 => .sym5 0x05
  | .symCtrl00110 => .sym5 0x06
  | .symCtrl00111 => .sym5 0x07
  | .symCtrl01000 => .sym5 0x08
  | .symData1 => .sym5 0x09
  | .symData4 => .sym5 0x0A
  | .symData5 => .sym5 0x0B
  | .symCtrl01100 => .sym5 0x0C
  | .symCtrl01101 => .sym5 0x0D
  | .symData6 => .sym5 0x0E
  | .symData7 => .sym5 0x0F
  | .symCtrl10000 => .sym5 0x10
  | .symCtrl10001 => .sym5 0x11
  | .symData8 => .sym5 0x12
  | .symData9 => .sym5 0x13
  | .symData2 => .sym5 0x14
  | .symData3 => .sym5 0x15
  | .symDataA => .sym5 0x16
  | .symDataB => .sym5 0x17
  | .symCtrl11000 => .sym5 0x18
  | .symCtrl11001 => .sym5 0x19
  | .symDataC => .sym5 0x1A
  | .symDataD => .sym5 0x1B
  | .symDataE => .sym5 0x1C
  | .symDataF => .sym5 0x1D
  | .symData0 => .sym5 0x1E
  | .symCtrl11111 => .sym5 0x1F
  | .blockCfg1 _ _ => .hblock 3
  | .blockCfg4 _ _ => .hblock 7
  | .blockCfg5 _ _ => .hblock 9
  | .blockCfg10 _ _ => .hblock 14
  | .blockCfg11 _ _ => .hblock 15
  | .blockCfg20 _ _ => .hblock 25

/-- The row a packet has the format, width and value of. -/
def Row.holds : Row → Packet → Prop
  | .cmd k, .op selector _ => selector.toNat = k
  | .sym5 k, .symbol w => w.toNat = k
  | .hblock k, .block b => b.length = k
  | _, _ => False

/-- An instruction's encoding has the format, width and value of its row. -/
def EncodeMatchesRow.Statement (i : Instr) : Prop := (rowOf i).holds (encode i)

theorem EncodeMatchesRow.bcTobin (t : List Byte) : EncodeMatchesRow.Statement (.bcTobin t) := rfl
theorem EncodeMatchesRow.bcFrombin (b : Bits) : EncodeMatchesRow.Statement (.bcFrombin b) := rfl
theorem EncodeMatchesRow.padMin (len m : Nat) : EncodeMatchesRow.Statement (.padMin len m) := rfl
theorem EncodeMatchesRow.padApply (b : Bits) (k : Nat) : EncodeMatchesRow.Statement (.padApply b k) := rfl
theorem EncodeMatchesRow.lcEnc (b : Bits) : EncodeMatchesRow.Statement (.lcEnc b) := rfl
theorem EncodeMatchesRow.lcDec (b : Bits) : EncodeMatchesRow.Statement (.lcDec b) := rfl
theorem EncodeMatchesRow.frFrame (b : Bits) : EncodeMatchesRow.Statement (.frFrame b) := rfl
theorem EncodeMatchesRow.frDeframe (b : Bits) : EncodeMatchesRow.Statement (.frDeframe b) := rfl
theorem EncodeMatchesRow.eccRed (m : Nat) : EncodeMatchesRow.Statement (.eccRed m) := rfl
theorem EncodeMatchesRow.eccEnc (d : Bits) : EncodeMatchesRow.Statement (.eccEnc d) := rfl
theorem EncodeMatchesRow.eccCor (b : Bits) : EncodeMatchesRow.Statement (.eccCor b) := rfl
theorem EncodeMatchesRow.eccExt (b : Bits) : EncodeMatchesRow.Statement (.eccExt b) := rfl
theorem EncodeMatchesRow.rsmPush (d : Bits) : EncodeMatchesRow.Statement (.rsmPush d) := rfl
theorem EncodeMatchesRow.txChunk (f : Bits) : EncodeMatchesRow.Statement (.txChunk f) := rfl
theorem EncodeMatchesRow.txSend (t : List Byte) : EncodeMatchesRow.Statement (.txSend t) := rfl
theorem EncodeMatchesRow.rxBlock (x : Bits) : EncodeMatchesRow.Statement (.rxBlock x) := rfl
theorem EncodeMatchesRow.sysReset : EncodeMatchesRow.Statement .sysReset := rfl
theorem EncodeMatchesRow.symCtrl00000 : EncodeMatchesRow.Statement .symCtrl00000 := rfl
theorem EncodeMatchesRow.symDelim : EncodeMatchesRow.Statement .symDelim := rfl
theorem EncodeMatchesRow.symCtrl00010 : EncodeMatchesRow.Statement .symCtrl00010 := rfl
theorem EncodeMatchesRow.symCtrl00011 : EncodeMatchesRow.Statement .symCtrl00011 := rfl
theorem EncodeMatchesRow.symCtrl00100 : EncodeMatchesRow.Statement .symCtrl00100 := rfl
theorem EncodeMatchesRow.symCtrl00101 : EncodeMatchesRow.Statement .symCtrl00101 := rfl
theorem EncodeMatchesRow.symCtrl00110 : EncodeMatchesRow.Statement .symCtrl00110 := rfl
theorem EncodeMatchesRow.symCtrl00111 : EncodeMatchesRow.Statement .symCtrl00111 := rfl
theorem EncodeMatchesRow.symCtrl01000 : EncodeMatchesRow.Statement .symCtrl01000 := rfl
theorem EncodeMatchesRow.symData1 : EncodeMatchesRow.Statement .symData1 := rfl
theorem EncodeMatchesRow.symData4 : EncodeMatchesRow.Statement .symData4 := rfl
theorem EncodeMatchesRow.symData5 : EncodeMatchesRow.Statement .symData5 := rfl
theorem EncodeMatchesRow.symCtrl01100 : EncodeMatchesRow.Statement .symCtrl01100 := rfl
theorem EncodeMatchesRow.symCtrl01101 : EncodeMatchesRow.Statement .symCtrl01101 := rfl
theorem EncodeMatchesRow.symData6 : EncodeMatchesRow.Statement .symData6 := rfl
theorem EncodeMatchesRow.symData7 : EncodeMatchesRow.Statement .symData7 := rfl
theorem EncodeMatchesRow.symCtrl10000 : EncodeMatchesRow.Statement .symCtrl10000 := rfl
theorem EncodeMatchesRow.symCtrl10001 : EncodeMatchesRow.Statement .symCtrl10001 := rfl
theorem EncodeMatchesRow.symData8 : EncodeMatchesRow.Statement .symData8 := rfl
theorem EncodeMatchesRow.symData9 : EncodeMatchesRow.Statement .symData9 := rfl
theorem EncodeMatchesRow.symData2 : EncodeMatchesRow.Statement .symData2 := rfl
theorem EncodeMatchesRow.symData3 : EncodeMatchesRow.Statement .symData3 := rfl
theorem EncodeMatchesRow.symDataA : EncodeMatchesRow.Statement .symDataA := rfl
theorem EncodeMatchesRow.symDataB : EncodeMatchesRow.Statement .symDataB := rfl
theorem EncodeMatchesRow.symCtrl11000 : EncodeMatchesRow.Statement .symCtrl11000 := rfl
theorem EncodeMatchesRow.symCtrl11001 : EncodeMatchesRow.Statement .symCtrl11001 := rfl
theorem EncodeMatchesRow.symDataC : EncodeMatchesRow.Statement .symDataC := rfl
theorem EncodeMatchesRow.symDataD : EncodeMatchesRow.Statement .symDataD := rfl
theorem EncodeMatchesRow.symDataE : EncodeMatchesRow.Statement .symDataE := rfl
theorem EncodeMatchesRow.symDataF : EncodeMatchesRow.Statement .symDataF := rfl
theorem EncodeMatchesRow.symData0 : EncodeMatchesRow.Statement .symData0 := rfl
theorem EncodeMatchesRow.symCtrl11111 : EncodeMatchesRow.Statement .symCtrl11111 := rfl
theorem EncodeMatchesRow.blockCfg1 (p : BitVec 2) (d : BitVec 1) : EncodeMatchesRow.Statement (.blockCfg1 p d) := weave_length _ _ _
theorem EncodeMatchesRow.blockCfg4 (p : BitVec 3) (d : BitVec 4) : EncodeMatchesRow.Statement (.blockCfg4 p d) := weave_length _ _ _
theorem EncodeMatchesRow.blockCfg5 (p : BitVec 4) (d : BitVec 5) : EncodeMatchesRow.Statement (.blockCfg5 p d) := weave_length _ _ _
theorem EncodeMatchesRow.blockCfg10 (p : BitVec 4) (d : BitVec 10) : EncodeMatchesRow.Statement (.blockCfg10 p d) := weave_length _ _ _
theorem EncodeMatchesRow.blockCfg11 (p : BitVec 4) (d : BitVec 11) : EncodeMatchesRow.Statement (.blockCfg11 p d) := weave_length _ _ _
theorem EncodeMatchesRow.blockCfg20 (p : BitVec 5) (d : BitVec 20) : EncodeMatchesRow.Statement (.blockCfg20 p d) := weave_length _ _ _

end Sys2Proof.Laws
end

