-- ==== Sys2Proof/Tests/Slice0.lean ====
section
/-! SUPPORT. The model's own tests. The expected results are the vectors of 95_test_vectors.md and the tables of 30_encoding.md, named
at each test; the witnesses at the end show a state and operands that meet the hypotheses of each statement. -/

namespace Sys2Proof.Tests

open Sys2Proof Sys2Proof.Machine

/-- A bit string written as its digits. -/
def bin (ds : List Nat) : Bits := ds.map (· == 1)

/-- The machine right after reset with `MSG_BITS = m`. -/
def after (m : MsgBits) : State := { State.reset with msgBits := m, cfgMsgBits := m }

/-- The machine in a frame, with the buffer `b`. -/
def inFrame (m : MsgBits) (b : Bits) : State := { after m with fsm := .inFrame, buf := b }

/-- The machine stopped by a wrong start (V-RX-4). -/
def stopped : State := { after cfg5 with buf := bin [0, 1, 0, 1, 1], faultCode := .framingDesync, faultUnit := .rsm }

/-- The result of an operation. -/
def resultOf : Host.Outcome State Fault Refusal → Option Result
  | .next t => some t.result
  | .fault _ => none
  | .refused _ => none

/-- What a reader of the receive path sees after an operation: the result, STATE, the length of BUF, FAULT. -/
def viewOf : Host.Outcome State Fault Refusal → Option (Result × RsmState × Nat × FaultCode × FaultUnit)
  | .next t => some (t.result, t.fsm, t.buf.length, t.faultCode, t.faultUnit)
  | .fault _ => none
  | .refused _ => none

/-! ## WellFormed refuses an ill-formed term for each of its checks -/

theorem test_wf_padMin : Instr.wellFormed cfg5 (.padMin 8 0) = false := by decide
theorem test_wf_eccRed : Instr.wellFormed cfg5 (.eccRed 0) = false := by decide
theorem test_wf_eccEnc : Instr.wellFormed cfg5 (.eccEnc (bin [0, 1, 1, 1])) = false := by decide
theorem test_wf_eccCor : Instr.wellFormed cfg5 (.eccCor (bin [0, 1, 1, 1, 0])) = false := by decide
theorem test_wf_eccExt : Instr.wellFormed cfg4 (.eccExt (bin [0, 1, 1, 1, 0, 1, 1, 0])) = false := by decide
theorem test_wf_rsmPush : Instr.wellFormed cfg5 (.rsmPush []) = false := by decide
theorem test_wf_rxBlock : Instr.wellFormed cfg4 (.rxBlock (bin [1, 0, 0, 0, 0, 0, 0, 1, 1])) = false := by decide
theorem test_wf_accepts :
    Instr.wellFormed cfg5 (.padMin 0 1) = true ∧ Instr.wellFormed cfg5 (.eccEnc (bin [0, 0, 0, 0, 1])) = true ∧
    Instr.wellFormed cfg5 (.rxBlock (bin [1, 0, 0, 0, 0, 0, 0, 1, 1])) = true := by decide

/-! ## Decoding: every row's word, written out from 30_encoding.md R75, R62 and R67 -/

theorem test_decode_bcTobin : decode (.op 0b00010000#8 { text := [0x48#8] }) = .ok (.bcTobin [0x48#8]) := by rfl
theorem test_decode_bcFrombin : decode (.op 0b00010001#8 { bits := bin [1] }) = .ok (.bcFrombin (bin [1])) := by rfl
theorem test_decode_padMin : decode (.op 0b00100000#8 { num := 16, msgBits := 5 }) = .ok (.padMin 16 5) := by rfl
theorem test_decode_padApply : decode (.op 0b00100001#8 { bits := bin [1], num := 8 }) = .ok (.padApply (bin [1]) 8) := by rfl
theorem test_decode_lcEnc : decode (.op 0b00110000#8 { bits := bin [1] }) = .ok (.lcEnc (bin [1])) := by rfl
theorem test_decode_lcDec : decode (.op 0b00110001#8 { bits := bin [1] }) = .ok (.lcDec (bin [1])) := by rfl
theorem test_decode_frFrame : decode (.op 0b01000000#8 { bits := bin [1] }) = .ok (.frFrame (bin [1])) := by rfl
theorem test_decode_frDeframe : decode (.op 0b01000001#8 { bits := bin [1] }) = .ok (.frDeframe (bin [1])) := by rfl
theorem test_decode_eccRed : decode (.op 0b01010000#8 { msgBits := 4 }) = .ok (.eccRed 4) := by rfl
theorem test_decode_eccEnc : decode (.op 0b01010001#8 { bits := bin [1] }) = .ok (.eccEnc (bin [1])) := by rfl
theorem test_decode_eccCor : decode (.op 0b01010010#8 { bits := bin [1] }) = .ok (.eccCor (bin [1])) := by rfl
theorem test_decode_eccExt : decode (.op 0b01010011#8 { bits := bin [1] }) = .ok (.eccExt (bin [1])) := by rfl
theorem test_decode_rsmPush : decode (.op 0b01100000#8 { bits := bin [1] }) = .ok (.rsmPush (bin [1])) := by rfl
theorem test_decode_txChunk : decode (.op 0b01110000#8 { bits := bin [1] }) = .ok (.txChunk (bin [1])) := by rfl
theorem test_decode_txSend : decode (.op 0b01110001#8 { text := [0x48#8] }) = .ok (.txSend [0x48#8]) := by rfl
theorem test_decode_rxBlock : decode (.op 0b01110010#8 { bits := bin [1] }) = .ok (.rxBlock (bin [1])) := by rfl
theorem test_decode_sysReset : decode (.op 0b11110000#8 {}) = .ok .sysReset := by rfl
theorem test_decode_symCtrl00000 : decode (.symbol 0b00000#5) = .ok .symCtrl00000 := by rfl
theorem test_decode_symDelim : decode (.symbol 0b00001#5) = .ok .symDelim := by rfl
theorem test_decode_symCtrl00010 : decode (.symbol 0b00010#5) = .ok .symCtrl00010 := by rfl
theorem test_decode_symCtrl00011 : decode (.symbol 0b00011#5) = .ok .symCtrl00011 := by rfl
theorem test_decode_symCtrl00100 : decode (.symbol 0b00100#5) = .ok .symCtrl00100 := by rfl
theorem test_decode_symCtrl00101 : decode (.symbol 0b00101#5) = .ok .symCtrl00101 := by rfl
theorem test_decode_symCtrl00110 : decode (.symbol 0b00110#5) = .ok .symCtrl00110 := by rfl
theorem test_decode_symCtrl00111 : decode (.symbol 0b00111#5) = .ok .symCtrl00111 := by rfl
theorem test_decode_symCtrl01000 : decode (.symbol 0b01000#5) = .ok .symCtrl01000 := by rfl
theorem test_decode_symData1 : decode (.symbol 0b01001#5) = .ok .symData1 := by rfl
theorem test_decode_symData4 : decode (.symbol 0b01010#5) = .ok .symData4 := by rfl
theorem test_decode_symData5 : decode (.symbol 0b01011#5) = .ok .symData5 := by rfl
theorem test_decode_symCtrl01100 : decode (.symbol 0b01100#5) = .ok .symCtrl01100 := by rfl
theorem test_decode_symCtrl01101 : decode (.symbol 0b01101#5) = .ok .symCtrl01101 := by rfl
theorem test_decode_symData6 : decode (.symbol 0b01110#5) = .ok .symData6 := by rfl
theorem test_decode_symData7 : decode (.symbol 0b01111#5) = .ok .symData7 := by rfl
theorem test_decode_symCtrl10000 : decode (.symbol 0b10000#5) = .ok .symCtrl10000 := by rfl
theorem test_decode_symCtrl10001 : decode (.symbol 0b10001#5) = .ok .symCtrl10001 := by rfl
theorem test_decode_symData8 : decode (.symbol 0b10010#5) = .ok .symData8 := by rfl
theorem test_decode_symData9 : decode (.symbol 0b10011#5) = .ok .symData9 := by rfl
theorem test_decode_symData2 : decode (.symbol 0b10100#5) = .ok .symData2 := by rfl
theorem test_decode_symData3 : decode (.symbol 0b10101#5) = .ok .symData3 := by rfl
theorem test_decode_symDataA : decode (.symbol 0b10110#5) = .ok .symDataA := by rfl
theorem test_decode_symDataB : decode (.symbol 0b10111#5) = .ok .symDataB := by rfl
theorem test_decode_symCtrl11000 : decode (.symbol 0b11000#5) = .ok .symCtrl11000 := by rfl
theorem test_decode_symCtrl11001 : decode (.symbol 0b11001#5) = .ok .symCtrl11001 := by rfl
theorem test_decode_symDataC : decode (.symbol 0b11010#5) = .ok .symDataC := by rfl
theorem test_decode_symDataD : decode (.symbol 0b11011#5) = .ok .symDataD := by rfl
theorem test_decode_symDataE : decode (.symbol 0b11100#5) = .ok .symDataE := by rfl
theorem test_decode_symDataF : decode (.symbol 0b11101#5) = .ok .symDataF := by rfl
theorem test_decode_symData0 : decode (.symbol 0b11110#5) = .ok .symData0 := by rfl
theorem test_decode_symCtrl11111 : decode (.symbol 0b11111#5) = .ok .symCtrl11111 := by rfl
theorem test_decode_blockCfg1 : decode (.block (bin [1, 0, 1])) =
    .ok (.blockCfg1 0b10#2 0b1#1) := by rfl
theorem test_decode_blockCfg4 : decode (.block (bin [1, 0, 1, 1, 0, 1, 1])) =
    .ok (.blockCfg4 0b101#3 0b1011#4) := by rfl
theorem test_decode_blockCfg5 : decode (.block (bin [1, 0, 1, 1, 0, 1, 1, 0, 0])) =
    .ok (.blockCfg5 0b1010#4 0b10110#5) := by rfl
theorem test_decode_blockCfg10 : decode (.block (bin [1, 0, 1, 1, 0, 1, 1, 0, 0, 1, 1, 0, 1, 1])) =
    .ok (.blockCfg10 0b1010#4 0b1011011011#10) := by rfl
theorem test_decode_blockCfg11 : decode (.block (bin [1, 0, 1, 1, 0, 1, 1, 0, 0, 1, 1, 0, 1, 1, 0])) =
    .ok (.blockCfg11 0b1010#4 0b10110110110#11) := by rfl
theorem test_decode_blockCfg20 : decode (.block (bin [1, 0, 1, 1, 0, 1, 1, 0, 0, 1, 1, 0, 1, 1, 0, 1, 1, 1, 0, 1, 1, 0, 1, 1, 0])) =
    .ok (.blockCfg20 0b10101#5 0b10110110110110110110#20) := by rfl

theorem test_decode_reserved :
    [0x00#8, 0x12#8, 0x54#8, 0x61#8, 0x73#8, 0xF1#8, 0xFF#8].map (fun op => decode (.op op {})) =
    [.error (.reservedSelector 0x00#8), .error (.reservedSelector 0x12#8), .error (.reservedSelector 0x54#8),
     .error (.reservedSelector 0x61#8), .error (.reservedSelector 0x73#8), .error (.reservedSelector 0xF1#8),
     .error (.reservedSelector 0xFF#8)] := by rfl
theorem test_decode_no_layout : decode (.block (bin [0, 0, 0, 0])) = .error (.noLayout 4) := by rfl

/-! ## The table's view of the decoder, and the fetch of a table row's word -/

theorem test_table_operation : decodeTableWord 8 0x51 = some (.eccEnc (bin [0, 0, 0, 0, 0])) := by decide
theorem test_table_reset : decodeTableWord 8 0xF0 = some .sysReset := by decide
theorem test_table_symbol : decodeTableWord 8 0b01001 = some .symData1 := by decide
theorem test_table_block : decodeTableWord 7 0b1011010 = some (.blockCfg4 0b101#3 0b1010#4) := by decide
theorem test_fetch_reset :
    Machine.step (State.reset.withFetchWord 8 0xF0) = exec .sysReset State.reset := by rfl
theorem test_fetch_symbol :
    Machine.step (State.reset.withFetchWord 8 0b11101) = exec .symDataF State.reset := by rfl
theorem test_fetch_send : Machine.step (State.reset.withFetchWord 8 0x71) = exec (.txSend []) State.reset := by rfl

/-! ## The instructions, from the vectors of 95_test_vectors.md -/

/-- V-BC-1. -/
theorem test_bcTobin_hi : resultOf (exec (.bcTobin [0x48#8, 0x69#8]) (after cfg5)) = some (.done (.bits (bin [0, 1, 0, 0, 1, 0, 0, 0, 0, 1, 1, 0, 1, 0, 0, 1]))) := by decide
/-- V-BC-4. -/
theorem test_bcTobin_high_bit : resultOf (exec (.bcTobin [0xFF#8, 0x80#8, 0x01#8]) (after cfg5)) = some (.done (.bits (bin [1, 1, 1, 1, 1, 1, 1, 1, 1, 0, 0, 0, 0, 0, 0, 0, 0, 0, 0, 0, 0, 0, 0, 1]))) := by decide
/-- V-BC-8. -/
theorem test_bcFrombin_drops_zero : resultOf (exec (.bcFrombin (bin [0, 1, 0, 0, 0, 0, 0, 1, 0, 0, 0, 0, 0, 0, 0, 0, 0, 1, 0, 0, 0, 0, 1, 0])) (after cfg5)) = some (.done (.text [0x41#8, 0x42#8])) := by decide
/-- V-BC-13. -/
theorem test_bcFrombin_length : resultOf (exec (.bcFrombin (bin [0, 1, 0, 0, 0, 0, 0, 1, 0])) (after cfg5)) = some (.fault .invariantViolation .bc) := by decide
/-- 41_padder.md R100. -/
theorem test_padMin_11 : resultOf (exec (.padMin 16 11) (after cfg5)) = some (.done (.nat 64)) := by decide
/-- 41_padder.md R103. -/
theorem test_padMin_rounds_up : resultOf (exec (.padMin 13 11) (after cfg5)) = some (.done (.nat 67)) := by decide
/-- 41_padder.md R101. -/
theorem test_padApply : resultOf (exec (.padApply (bin [0, 1, 0, 0, 1, 0, 0, 0, 0, 1, 1, 0, 1, 0, 0, 1]) 8) (after cfg5)) = some (.done (.bits (bin [0, 0, 0, 0, 0, 0, 0, 0, 0, 1, 0, 0, 1, 0, 0, 0, 0, 1, 1, 0, 1, 0, 0, 1]))) := by decide
/-- V-LC-3. -/
theorem test_lcEnc_hi : resultOf (exec (.lcEnc (bin [0, 1, 0, 0, 1, 0, 0, 0, 0, 1, 1, 0, 1, 0, 0, 1])) (after cfg5)) = some (.done (.bits (bin [0, 1, 0, 1, 0, 1, 0, 0, 1, 0, 0, 1, 1, 1, 0, 1, 0, 0, 1, 1]))) := by decide
/-- V-LC-8. -/
theorem test_lcEnc_length : resultOf (exec (.lcEnc (bin [0, 1, 0, 0, 1])) (after cfg5)) = some (.fault .invariantViolation .lc) := by decide
/-- V-LC-10. -/
theorem test_lcDec_hi : resultOf (exec (.lcDec (bin [0, 1, 0, 1, 0, 1, 0, 0, 1, 0, 0, 1, 1, 1, 0, 1, 0, 0, 1, 1])) (after cfg5)) = some (.done (.bits (bin [0, 1, 0, 0, 1, 0, 0, 0, 0, 1, 1, 0, 1, 0, 0, 1]))) := by decide
/-- V-LC-19. -/
theorem test_lcDec_bad_symbol : resultOf (exec (.lcDec (bin [0, 1, 0, 1, 0, 0, 0, 1, 0, 0, 0, 0, 0, 0, 0])) (after cfg5)) = some (.fault .invalidCodeword .lc) := by decide
/-- V-FR-4. -/
theorem test_frFrame : resultOf (exec (.frFrame (bin [1, 0, 1])) (after cfg5)) = some (.done (.bits (bin [0, 0, 0, 0, 1, 1, 0, 1, 0, 0, 0, 0, 1]))) := by decide
/-- V-FR-14. -/
theorem test_frDeframe : resultOf (exec (.frDeframe (bin [0, 0, 0, 0, 1, 1, 0, 1, 0, 0, 0, 0, 1])) (after cfg5)) = some (.done (.bits (bin [1, 0, 1]))) := by decide
/-- V-FR-7. -/
theorem test_frDeframe_short : resultOf (exec (.frDeframe (bin [0, 0, 0, 0, 1, 0, 0, 0, 0])) (after cfg5)) = some (.fault .framingDesync .fr) := by decide
/-- V-ECC-1. -/
theorem test_eccRed_11 : resultOf (exec (.eccRed 11) (after cfg5)) = some (.done (.nat 4)) := by decide
/-- V-ECC-1. -/
theorem test_eccRed_12 : resultOf (exec (.eccRed 12) (after cfg5)) = some (.done (.nat 5)) := by decide
/-- V-ECC-3. -/
theorem test_eccEnc_cfg4 : resultOf (exec (.eccEnc (bin [0, 1, 1, 0])) (after cfg4)) = some (.done (.bits (bin [1, 1, 0, 0, 1, 1, 0]))) := by decide
/-- V-ECC-5. -/
theorem test_eccEnc_cfg11 : resultOf (exec (.eccEnc (bin [0, 0, 0, 0, 1, 1, 1, 1, 1, 0, 1])) (after cfg11)) = some (.done (.bits (bin [0, 1, 0, 1, 0, 0, 0, 0, 1, 1, 1, 1, 1, 0, 1]))) := by decide
/-- V-ECC-6. -/
theorem test_eccCor_data_position : resultOf (exec (.eccCor (bin [1, 0, 1, 1, 1, 1, 0])) (after cfg4)) = some (.done (.bits (bin [1, 0, 1, 1, 0, 1, 0]))) := by decide
/-- 44_hamming.md R136. -/
theorem test_eccCor_out_of_range : resultOf (exec (.eccCor (bin [0, 0, 0, 0, 1, 0, 1, 1, 0])) (after cfg5)) = some (.done (.bits (bin [0, 0, 0, 0, 1, 0, 1, 1, 0]))) := by decide
/-- 44_hamming.md R137. -/
theorem test_eccExt_cfg5 : resultOf (exec (.eccExt (bin [0, 1, 0, 0, 1, 0, 1, 0, 0])) (after cfg5)) = some (.done (.bits (bin [0, 1, 0, 1, 0]))) := by decide
/-- V-ECC-12. -/
theorem test_eccExt_invalid_block : resultOf (exec (.eccExt (bin [0, 0, 0, 0, 0, 0, 0, 0, 1])) (after cfg5)) = some (.done (.bits (bin [0, 0, 0, 0, 1]))) := by decide
/-- V-RSM-2. -/
theorem test_rsmPush_whole_frame :
    viewOf (exec (.rsmPush (bin [0, 0, 0, 0, 1, 0, 0, 0, 0, 1])) (after cfg10)) =
      some (.done (.text []), .awaitingStart, 0, .none, .none) := by decide
/-- V-RSM-9. -/
theorem test_rsmPush_false_end :
    viewOf (exec (.rsmPush (bin [0, 0, 0, 1])) (inFrame cfg4 (bin [0, 0, 0, 0, 1, 0, 1, 0]))) =
      some (.fault .invariantViolation .lc, .inFrame, 12, .invariantViolation, .lc) := by decide
/-- V-TX-14. -/
theorem test_txChunk_cfg4 : resultOf (exec (.txChunk (bin [0, 0, 0, 0, 1, 0, 1, 0, 1, 0, 0, 1, 0, 0, 1, 0, 0, 0, 0, 1])) (after cfg4)) = some (.done (.list [bin [0, 0, 0, 0], bin [1, 0, 1, 0], bin [1, 0, 0, 1], bin [0, 0, 1, 0], bin [0, 0, 0, 1]])) := by decide
/-- V-TX-14. -/
theorem test_txChunk_length : resultOf (exec (.txChunk (bin [0, 0, 0, 0, 1, 0, 0, 0, 0, 1])) (after cfg4)) = some (.fault .invariantViolation .pipeline) := by decide
/-- V-TX-8. -/
theorem test_txSend_cfg20 : resultOf (exec (.txSend [0x48#8]) (after cfg20)) = some (.done (.list [bin [0, 1, 0, 0, 0, 0, 0, 1, 1, 0, 1, 0, 1, 0, 1, 0, 0, 0, 1, 0, 0, 0, 0, 0, 1]])) := by decide
/-- 95_test_vectors.md P3. -/
theorem test_txSend_cfg4 : resultOf (exec (.txSend [0x41#8]) (after cfg4)) = some (.done (.list [bin [0, 0, 0, 0, 0, 0, 0], bin [1, 0, 1, 1, 0, 1, 0], bin [0, 0, 1, 1, 0, 0, 1], bin [0, 1, 0, 1, 0, 1, 0], bin [1, 1, 0, 1, 0, 0, 1]])) := by decide
/-- V-RX-2, third block. -/
theorem test_rxBlock_corrects :
    viewOf (exec (.rxBlock (bin [0, 0, 1, 1, 0, 1, 1, 0, 0])) (inFrame cfg5 (bin [0, 0, 0, 0, 1, 0, 1, 0, 1, 0]))) =
      some (.done .nothing, .inFrame, 15, .none, .none) := by decide
/-- V-RX-4, first block. -/
theorem test_rxBlock_desync :
    viewOf (exec (.rxBlock (bin [1, 1, 0, 0, 0, 0, 1, 1, 1])) (after cfg5)) =
      some (.fault .framingDesync .rsm, .awaitingStart, 5, .framingDesync, .rsm) := by decide
/-- V-SYS-1. -/
theorem test_sysReset_clears_fault :
    viewOf (exec .sysReset stopped) =
      some (.done .nothing, .awaitingStart, 0, .none, .none) := by decide

/-- The 32 symbol rows look up what 30_encoding.md R62 shows. -/
theorem test_symbol_rows :
    ([Instr.symCtrl00000,
      .symDelim, .symCtrl00010, .symCtrl00011, .symCtrl00100, .symCtrl00101, .symCtrl00110, .symCtrl00111,
      .symCtrl01000, .symData1, .symData4, .symData5, .symCtrl01100, .symCtrl01101, .symData6, .symData7,
      .symCtrl10000, .symCtrl10001, .symData8, .symData9, .symData2, .symData3, .symDataA, .symDataB, .symCtrl11000,
      .symCtrl11001, .symDataC, .symDataD, .symDataE, .symDataF, .symData0, .symCtrl11111].map fun i => resultOf (exec i (after cfg5))) =
      [
       some (.fault .invalidCodeword .lc), some (.fault .invalidCodeword .lc), some (.fault .invalidCodeword .lc),
       some (.fault .invalidCodeword .lc), some (.fault .invalidCodeword .lc), some (.fault .invalidCodeword .lc),
       some (.fault .invalidCodeword .lc), some (.fault .invalidCodeword .lc), some (.fault .invalidCodeword .lc),
       some (.done (.bits (bin [0, 0, 0, 1]))), some (.done (.bits (bin [0, 1, 0, 0]))),
       some (.done (.bits (bin [0, 1, 0, 1]))), some (.fault .invalidCodeword .lc),
       some (.fault .invalidCodeword .lc), some (.done (.bits (bin [0, 1, 1, 0]))),
       some (.done (.bits (bin [0, 1, 1, 1]))), some (.fault .invalidCodeword .lc),
       some (.fault .invalidCodeword .lc), some (.done (.bits (bin [1, 0, 0, 0]))),
       some (.done (.bits (bin [1, 0, 0, 1]))), some (.done (.bits (bin [0, 0, 1, 0]))),
       some (.done (.bits (bin [0, 0, 1, 1]))), some (.done (.bits (bin [1, 0, 1, 0]))),
       some (.done (.bits (bin [1, 0, 1, 1]))), some (.fault .invalidCodeword .lc),
       some (.fault .invalidCodeword .lc), some (.done (.bits (bin [1, 1, 0, 0]))),
       some (.done (.bits (bin [1, 1, 0, 1]))), some (.done (.bits (bin [1, 1, 1, 0]))),
       some (.done (.bits (bin [1, 1, 1, 1]))), some (.done (.bits (bin [0, 0, 0, 0]))),
       some (.fault .invalidCodeword .lc)] := by decide
/-- The valid block of V-ECC-2. -/
theorem test_blockCfg1 : resultOf (exec (.blockCfg1 0b11#2 0b1#1) (after cfg5)) =
    some (.done (.reading ⟨1, 2, 3, (bin [1, 1]), (bin [1]), true⟩)) := by decide
/-- The valid block of V-ECC-6. -/
theorem test_blockCfg4 : resultOf (exec (.blockCfg4 0b101#3 0b1010#4) (after cfg5)) =
    some (.done (.reading ⟨4, 3, 7, (bin [1, 0, 1]), (bin [1, 0, 1, 0]), true⟩)) := by decide
/-- A block of V-RX-2 with one flipped bit. -/
theorem test_blockCfg5 : resultOf (exec (.blockCfg5 0b0010#4 0b10110#5) (after cfg5)) =
    some (.done (.reading ⟨5, 4, 9, (bin [0, 0, 1, 0]), (bin [1, 0, 1, 1, 0]), false⟩)) := by decide
/-- The valid block of V-ECC-5. -/
theorem test_blockCfg10 : resultOf (exec (.blockCfg10 0b1111#4 0b0000101010#10) (after cfg5)) =
    some (.done (.reading ⟨10, 4, 14, (bin [1, 1, 1, 1]), (bin [0, 0, 0, 0, 1, 0, 1, 0, 1, 0]), true⟩)) := by decide
/-- Block 8 of P5 with one flipped bit. -/
theorem test_blockCfg11 : resultOf (exec (.blockCfg11 0b1110#4 0b11011100010#11) (after cfg5)) =
    some (.done (.reading ⟨11, 4, 15, (bin [1, 1, 1, 0]), (bin [1, 1, 0, 1, 1, 1, 0, 0, 0, 1, 0]), false⟩)) := by decide
/-- The valid block of V-ECC-5. -/
theorem test_blockCfg20 : resultOf (exec (.blockCfg20 0b01010#5 0b00001010101001000001#20) (after cfg5)) =
    some (.done (.reading ⟨20, 5, 25, (bin [0, 1, 0, 1, 0]), (bin [0, 0, 0, 0, 1, 0, 1, 0, 1, 0, 1, 0, 0, 1, 0, 0, 0, 0, 0, 1]), true⟩)) := by decide

/-- A step performs the oldest thing presented and leaves the rest presented (20_memory.md R55). -/
theorem test_step_takes_one :
    Machine.step ((after cfg5).withInput [.present (.op 0xF0#8 {}), .resetInput]) =
      .next ((after cfg5).withInput [.resetInput]) := by rfl

/-! ## Witnesses: for each statement with hypotheses, a state and operands that meet them, clause by clause -/

theorem witness_StepRunsDecodedInstruction :
    ((after cfg5).withInput [.present (.symbol 0b00001#5), .resetInput]).input =
      .present (.symbol 0b00001#5) :: [.resetInput] ∧ decode (.symbol 0b00001#5) = .ok .symDelim := ⟨rfl, rfl⟩

theorem witness_ResetInputAndSelectorAgree :
    (stopped.withInput [.resetInput]).input = .resetInput :: [] ∧
    (stopped.withInput [.present (.op 0xF0#8 { num := 1 })]).input = .present (.op 0xF0#8 { num := 1 }) :: [] := ⟨rfl, rfl⟩

theorem witness_ReservedSelectorRefused :
    0xFF#8 ∉ [0x10#8, 0x11#8, 0x20#8, 0x21#8, 0x30#8, 0x31#8, 0x40#8, 0x41#8, 0x50#8, 0x51#8, 0x52#8, 0x53#8, 0x60#8, 0x70#8,
      0x71#8, 0x72#8, 0xF0#8] ∧
    ((after cfg5).withInput [.present (.op 0xFF#8 {})]).input = .present (.op 0xFF#8 {}) :: [] := ⟨by decide, rfl⟩

theorem witness_ConfigureAndIdleSteps :
    ((after cfg5).withInput [.configure cfg11]).input = .configure cfg11 :: [] ∧ ((after cfg5).emit []).input = [] := ⟨rfl, rfl⟩

theorem witness_SelectorsNameTheOperations :
    0x00#8 ∉ [0x10#8, 0x11#8, 0x20#8, 0x21#8, 0x30#8, 0x31#8, 0x40#8, 0x41#8, 0x50#8, 0x51#8, 0x52#8, 0x53#8, 0x60#8, 0x70#8,
      0x71#8, 0x72#8, 0xF0#8] := by decide

theorem witness_EncodeOfDecodeIsTheWord :
    decode (.symbol 0b11111#5) = .ok .symCtrl11111 ∧
    decode (.block (bin [1, 1, 1])) = .ok (.blockCfg1 0b11#2 0b1#1) ∧
    decode (.op 0x50#8 { msgBits := 1 }) = .ok (.eccRed 1) := ⟨rfl, rfl, rfl⟩

theorem witness_SysResetRestartsTheCore :
    stopped.faultCode ≠ .none ∧ exec .sysReset stopped = .next stopped.restart ∧ stopped.restart.faultCode = .none ∧
    exec .sysReset ((after cfg5).drive cfg11) = .next ((after cfg5).drive cfg11).restart ∧
    ((after cfg5).drive cfg11).restart.msgBits ≠ ((after cfg5).drive cfg11).msgBits :=
  ⟨by decide, rfl, rfl, rfl, by decide⟩

theorem witness_MsgBitsSampledAtResetOnly :
    Machine.step ((after cfg5).withInput [.resetInput]) = .next ((after cfg5).withInput []).restart := rfl

theorem witness_TablesAndCapacityNeverWritten :
    Machine.step ((after cfg5).withInput [.present (.symbol 0b00000#5)]) =
      .next ((after cfg5).raiseStateless ⟨.invalidCodeword, .lc⟩) := rfl

theorem witness_StatelessOperationsTouchNoState :
    decode (.op 0x50#8 { msgBits := 4 }) = .ok (.eccRed 4) ∧ (∀ d, Instr.eccRed 4 ≠ .rsmPush d) ∧ (∀ x, Instr.eccRed 4 ≠ .rxBlock x) ∧ Instr.eccRed 4 ≠ .sysReset ∧
    exec (.eccRed 4) (after cfg5) = .next ((after cfg5).returns (.nat 3)) ∧
    stopped.msgBits = (after cfg5).msgBits ∧ stopped.lcTable = (after cfg5).lcTable ∧
    exec (.eccRed 4) stopped = .next (stopped.returns (.nat 3)) :=
  ⟨rfl, fun _ => nofun, fun _ => nofun, nofun, rfl, rfl, rfl, rfl⟩

theorem witness_IllTypedOperandRefused :
    Instr.wellFormed (after cfg5).msgBits (.rxBlock (bin [1, 0, 0, 0, 0, 0, 0, 1])) = false := by decide

theorem witness_FromBinaryDropsZeroGroups :
    (bin [0, 1, 0, 0, 0, 0, 0]).length % 8 ≠ 0 ∧ (bin [0, 1, 0, 0, 0, 0, 0, 1]).length % 8 = 0 := by decide

theorem witness_PadMinIsTheSmallestPadding : 0 < 1 := by decide

theorem witness_PadMinClosedForm : 0 < 11 ∧ 11 = 11 / Nat.gcd 10 11 ∧ 11 - 1 ≤ 10 := by decide

theorem witness_LineEncodeMapsEachGroup :
    (bin [0, 1, 0]).length % 4 ≠ 0 ∧ (bin [1, 1, 1, 1]).length % 4 = 0 := by decide

theorem witness_LineDecodeInvertsEachSymbol :
    (bin [0, 1, 0, 1]).length % 5 ≠ 0 ∧
    ((bin [0, 0, 0, 0, 1]).length % 5 = 0 ∧ ∃ j < (bin [0, 0, 0, 0, 1]).length / 5,
      ∀ i : Fin 16, toBits (after cfg5).lcTable.sym[i] ≠ slice (bin [0, 0, 0, 0, 1]) (5 * j) (5 * j + 5)) ∧
    ((bin [1, 1, 1, 1, 0]).length % 5 = 0 ∧ ∀ j < (bin [1, 1, 1, 1, 0]).length / 5,
      ∃ i : Fin 16, toBits (after cfg5).lcTable.sym[i] = slice (bin [1, 1, 1, 1, 0]) (5 * j) (5 * j + 5)) := by decide

theorem witness_LineCodeIsABijection :
    (bin [0, 1, 0, 0]).length % 4 = 0 ∧ lineEncode lcTableStd (bin [0, 1, 0, 0]) = .ok (bin [0, 1, 0, 1, 0]) ∧
    lineDecode lcTableStd (bin [0, 1, 0, 1, 0]) = .ok (bin [0, 1, 0, 0]) := ⟨by decide, rfl, rfl⟩

theorem witness_SymbolRowsOfTheStandardTable : stopped.lcTable = lcTableStd := rfl

theorem witness_DeframeStripsOrDesyncs :
    bin [0, 0, 0, 0, 1, 0, 0, 0, 0, 1] = delim ++ [] ++ delim ∧
    ¬ ∃ p : Bits, bin [0, 0, 0, 0, 1, 0, 0, 0, 0] = delim ++ p ++ delim := by
  refine ⟨by decide, ?_⟩
  rintro ⟨p, h⟩
  have h' := congrArg List.length h
  simp only [List.length_append, bin, delim, List.length_map, List.length_cons, List.length_nil] at h'
  omega

theorem witness_RedBitsIsTheSmallest : 0 < 1 := by decide

theorem witness_EccEncodePlacesDataAndParity : (bin [0]).length = (after cfg1).msgBits.val := by decide

theorem witness_ValidBlocksAreTheEncodedChunks :
    (bin [1, 0, 1, 1, 0, 1, 0]).length = blockBits cfg4.val ∧ (bin [1, 0, 1, 0]).length = cfg4.val ∧
    eccEncode cfg4.val (bin [1, 0, 1, 0]) = eccEncode cfg4.val (bin [1, 0, 1, 0]) := by decide

theorem witness_EccExtractReadsTheDataPositions :
    (bin [1, 1, 1]).length = blockBits (after cfg1).msgBits.val ∧ (bin [0, 1, 0, 1]).length = cfg4.val := by decide

theorem witness_EccCorrectFlipsTheSyndromePosition :
    (bin [1, 0, 1, 1, 1, 1, 0]).length = blockBits (after cfg4).msgBits.val ∧ 1 ≤ 7 ∧ 7 ≤ blockBits (after cfg4).msgBits.val ∧
    syndrome (bin [1, 0, 1, 1, 1, 1, 0]) 7 3 = 5 := by decide

theorem witness_SingleErrorIsCorrected :
    (bin [0, 1, 0, 1, 0]).length = cfg5.val ∧ (1 ≤ 1 ∧ 1 ≤ blockBits cfg5.val) ∧ (1 ≤ 9 ∧ 9 ≤ blockBits cfg5.val) ∧
    AtMostOneFlip (eccEncode cfg5.val (bin [0, 1, 0, 1, 0])) (bin [0, 1, 0, 0, 1, 0, 1, 0, 1]) :=
  ⟨by decide, by decide, by decide, .inr ⟨9, by decide, by decide, by decide⟩⟩

/-- Positions 2 and 8 are the harmless pair of V-ECC-10, 1 and 9 a harmful one. -/
theorem witness_DoubleErrorIsMiscorrected :
    (bin [0, 1, 0, 1, 0]).length = cfg5.val ∧ (1 ≤ 2 ∧ 2 ≤ blockBits cfg5.val ∧ 1 ≤ 8 ∧ 8 ≤ blockBits cfg5.val ∧ 2 ≠ 8) ∧
    1 ≤ 9 ∧ 9 ≤ blockBits cfg5.val ∧ 1 ≤ blockBits cfg5.val ∧ 1 ≠ 9 := by decide

theorem witness_ReceivePathRefusedWhileFaulted :
    stopped.faultCode ≠ .none ∧ (∀ d, Instr.eccRed 4 ≠ .rsmPush d) ∧ (∀ x, Instr.eccRed 4 ≠ .rxBlock x) ∧
    exec (.eccRed 4) { stopped with faultCode := .none, faultUnit := .none } =
      .next (State.returns { stopped with faultCode := .none, faultUnit := .none } (.nat 3)) :=
  ⟨by decide, fun _ => nofun, fun _ => nofun, rfl⟩

/-- V-RSM-12: the buffer of ten bits is full. -/
def full : State := { inFrame cfg5 (bin [0, 0, 0, 0, 1, 0, 1, 0, 1, 0]) with bufCap := some 10 }

theorem witness_PushOverflowLeavesTheBuffer :
    full.faultCode = .none ∧ (bin [1, 0, 0, 1, 0]).length = full.msgBits.val ∧ full.bufCap = some 10 ∧
    10 < full.buf.length + full.msgBits.val := by decide

/-- The machine with room for exactly `k` more bits. -/
def room (s : State) (k : Nat) : State := { s with bufCap := some (s.buf.length + k) }

theorem room_fits (s : State) (k : Nat) : (room s k).Fits k := by
  intro cap h
  cases h
  exact Nat.le_refl _

theorem witness_PushWithoutStartDelimiterDesyncs :
    (room (after cfg5) 5).faultCode = .none ∧ (bin [1, 0, 0, 0, 0]).length = (room (after cfg5) 5).msgBits.val ∧
    (room (after cfg5) 5).Fits (bin [1, 0, 0, 0, 0]).length ∧ (room (after cfg5) 5).fsm = .awaitingStart ∧
    5 ≤ ((room (after cfg5) 5).buf ++ bin [1, 0, 0, 0, 0]).length ∧
    ((room (after cfg5) 5).buf ++ bin [1, 0, 0, 0, 0]).take 5 ≠ delim :=
  ⟨rfl, rfl, room_fits _ 5, rfl, by decide, by decide⟩

/-- V-RSM-4, first push: four bits, no start test. -/
theorem witness_PushAccumulates_awaiting :
    (room (after cfg4) 4).faultCode = .none ∧ (bin [0, 0, 0, 0]).length = (room (after cfg4) 4).msgBits.val ∧
    (room (after cfg4) 4).Fits (bin [0, 0, 0, 0]).length ∧ (room (after cfg4) 4).fsm = .awaitingStart ∧
    ((room (after cfg4) 4).buf ++ bin [0, 0, 0, 0]).length < 5 :=
  ⟨rfl, rfl, room_fits _ 4, rfl, by decide⟩

/-- V-RSM-1, first push: five bits, the start delimiter; they also end in it, but there are fewer than ten. -/
theorem witness_PushAccumulates_start :
    (room (after cfg5) 5).faultCode = .none ∧ (bin [0, 0, 0, 0, 1]).length = (room (after cfg5) 5).msgBits.val ∧
    (room (after cfg5) 5).Fits (bin [0, 0, 0, 0, 1]).length ∧ (room (after cfg5) 5).fsm = .awaitingStart ∧
    5 ≤ ((room (after cfg5) 5).buf ++ bin [0, 0, 0, 0, 1]).length ∧
    ((room (after cfg5) 5).buf ++ bin [0, 0, 0, 0, 1]).take 5 = delim ∧
    (((room (after cfg5) 5).buf ++ bin [0, 0, 0, 0, 1]).length < 10 ∨
      ¬ delim <:+ (room (after cfg5) 5).buf ++ bin [0, 0, 0, 0, 1]) :=
  ⟨rfl, rfl, room_fits _ 5, rfl, by decide, by decide, .inl (by decide)⟩

/-- V-RSM-4, third push: in a frame, no end. -/
theorem witness_PushAccumulates_inFrame :
    (room (inFrame cfg4 (bin [0, 0, 0, 0, 1, 0, 1, 0])) 4).faultCode = .none ∧
    (bin [1, 0, 0, 1]).length = (room (inFrame cfg4 (bin [0, 0, 0, 0, 1, 0, 1, 0])) 4).msgBits.val ∧
    (room (inFrame cfg4 (bin [0, 0, 0, 0, 1, 0, 1, 0])) 4).Fits (bin [1, 0, 0, 1]).length ∧
    (room (inFrame cfg4 (bin [0, 0, 0, 0, 1, 0, 1, 0])) 4).fsm = .inFrame ∧
    ((bin [0, 0, 0, 0, 1, 0, 1, 0] ++ bin [1, 0, 0, 1]).length < 10 ∨
      ¬ delim <:+ bin [0, 0, 0, 0, 1, 0, 1, 0] ++ bin [1, 0, 0, 1]) :=
  ⟨rfl, rfl, room_fits _ 4, rfl, .inr (by decide)⟩

/-- V-RSM-2: one push holds the whole frame. -/
theorem witness_PushCompletesTheFrame :
    (room (after cfg10) 10).faultCode = .none ∧
    (bin [0, 0, 0, 0, 1, 0, 0, 0, 0, 1]).length = (room (after cfg10) 10).msgBits.val ∧
    (room (after cfg10) 10).Fits (bin [0, 0, 0, 0, 1, 0, 0, 0, 0, 1]).length ∧
    (room (after cfg10) 10).buf ++ bin [0, 0, 0, 0, 1, 0, 0, 0, 0, 1] = delim ++ [] ++ delim ∧
    lineDecode (room (after cfg10) 10).lcTable [] = .ok [] ∧ fromBinary [] = .ok [] :=
  ⟨rfl, rfl, room_fits _ 10, rfl, rfl, rfl⟩

/-- V-RSM-9: the payload of two bits fails the length test of LC.DEC. -/
theorem witness_PushCompletionFaultKeepsTheBuffer_lineDecode :
    (room (inFrame cfg4 (bin [0, 0, 0, 0, 1, 0, 1, 0])) 4).faultCode = .none ∧
    (bin [0, 0, 0, 1]).length = (room (inFrame cfg4 (bin [0, 0, 0, 0, 1, 0, 1, 0])) 4).msgBits.val ∧
    (room (inFrame cfg4 (bin [0, 0, 0, 0, 1, 0, 1, 0])) 4).Fits (bin [0, 0, 0, 1]).length ∧
    bin [0, 0, 0, 0, 1, 0, 1, 0] ++ bin [0, 0, 0, 1] = delim ++ bin [0, 1] ++ delim ∧
    lineDecode lcTableStd (bin [0, 1]) = .error ⟨.invariantViolation, .lc⟩ :=
  ⟨rfl, rfl, room_fits _ 4, rfl, rfl⟩

/-- V-RSM-8: the payload of one symbol decodes to four bits, which fail the length test of BC.FROMBIN. -/
theorem witness_PushCompletionFaultKeepsTheBuffer_fromBinary :
    (room (inFrame cfg5 (bin [0, 0, 0, 0, 1, 0, 1, 0, 1, 0])) 5).faultCode = .none ∧
    (bin [0, 0, 0, 0, 1]).length = (room (inFrame cfg5 (bin [0, 0, 0, 0, 1, 0, 1, 0, 1, 0])) 5).msgBits.val ∧
    (room (inFrame cfg5 (bin [0, 0, 0, 0, 1, 0, 1, 0, 1, 0])) 5).Fits (bin [0, 0, 0, 0, 1]).length ∧
    bin [0, 0, 0, 0, 1, 0, 1, 0, 1, 0] ++ bin [0, 0, 0, 0, 1] = delim ++ bin [0, 1, 0, 1, 0] ++ delim ∧
    lineDecode lcTableStd (bin [0, 1, 0, 1, 0]) = .ok (bin [0, 1, 0, 0]) ∧
    fromBinary (bin [0, 1, 0, 0]) = .error ⟨.invariantViolation, .bc⟩ :=
  ⟨rfl, rfl, room_fits _ 5, rfl, rfl, rfl⟩

/-- The machine in a frame with the start delimiter in its buffer, and a block presented that faults nothing. -/
def running : State :=
  (inFrame cfg5 (bin [0, 0, 0, 0, 1])).withInput [.present (.op 0x60#8 { bits := bin [0, 1, 0, 1, 0] })]

theorem witness_StepKeepsTheReceiverInvariant :
    running.Inv ∧ Machine.step running = .next (((running.withInput []).append (bin [0, 1, 0, 1, 0])).returns .nothing) := by
  refine ⟨⟨by decide, ?_, by decide, by decide, by decide, by decide, by decide⟩, rfl⟩
  intro cap h
  cases h

theorem witness_RecordedFaultStaysUntilReset :
    stopped.faultCode ≠ .none ∧
    Machine.step (stopped.withInput [.present (.op 0x60#8 { bits := bin [0, 0, 0, 0, 1] })]) = .next stopped.refuse ∧
    Machine.step (stopped.withInput [.resetInput]) = .next stopped.restart := ⟨by decide, rfl, rfl⟩

/-- A stateless fault, and V-RSM-6: a wrong start latches. -/
theorem witness_FaultsAreLatchedOnTheReceivePathOnly :
    exec (.lcDec (bin [0, 1, 0, 1])) (after cfg5) = .next ((after cfg5).raiseStateless ⟨.invariantViolation, .lc⟩) ∧
    ((after cfg5).raiseStateless ⟨.invariantViolation, .lc⟩).result = .fault .invariantViolation .lc ∧
    exec (.rsmPush (bin [1, 0, 0, 0, 0])) (after cfg5) =
      .next (((after cfg5).append (bin [1, 0, 0, 0, 0])).raiseLatched ⟨.framingDesync, .rsm⟩) ∧
    (((after cfg5).append (bin [1, 0, 0, 0, 0])).raiseLatched ⟨.framingDesync, .rsm⟩).result = .fault .framingDesync .rsm :=
  ⟨rfl, rfl, rfl, rfl⟩

theorem witness_EmissionOnlyByACompletedFrame :
    exec (.rsmPush (bin [0, 0, 0, 0, 1, 0, 0, 0, 0, 1])) (after cfg10) =
      .next (((after cfg10).append (bin [0, 0, 0, 0, 1, 0, 0, 0, 0, 1])).enterFrame.emit []) ∧
    (((after cfg10).append (bin [0, 0, 0, 0, 1, 0, 0, 0, 0, 1])).enterFrame.emit []).msgOut = some [] := ⟨rfl, rfl⟩

/-- V-RX-13: CFG10, the empty message in one block. -/
theorem witness_EmissionOnlyByACompletedFrame_rxBlock :
    exec (.rxBlock (bin [1, 1, 0, 1, 0, 0, 0, 0, 1, 0, 0, 0, 0, 1])) (after cfg10) =
      .next (((after cfg10).append (bin [0, 0, 0, 0, 1, 0, 0, 0, 0, 1])).enterFrame.emit []) := rfl

/-- The step that emits, and the idle step after it, in which MSG_VALID is cleared. -/
theorem witness_MsgValidOnlyForTheEmittingOperation :
    Machine.step ((after cfg10).withInput [.present (.op 0x60#8 { bits := bin [0, 0, 0, 0, 1, 0, 0, 0, 0, 1] })]) =
      .next (((after cfg10).append (bin [0, 0, 0, 0, 1, 0, 0, 0, 0, 1])).enterFrame.emit []) ∧
    (((after cfg10).append (bin [0, 0, 0, 0, 1, 0, 0, 0, 0, 1])).enterFrame.emit []).msgValid = true ∧
    Machine.step ((after cfg10).emit []) = .next ((after cfg10).emit []).endOperation ∧
    ((after cfg10).emit []).endOperation.msgValid = false := ⟨rfl, rfl, rfl, rfl⟩

theorem witness_ChunkCutsWholePieces :
    (bin [0, 0, 0]).length % (after cfg4).msgBits.val ≠ 0 ∧ (bin [0, 0, 0, 0]).length % (after cfg4).msgBits.val = 0 := by decide

theorem witness_ReceiveBlockPushesTheCorrectedData :
    (after cfg5).faultCode = .none ∧ (bin [1, 0, 0, 0, 0, 0, 0, 1, 1]).length = blockBits (after cfg5).msgBits.val ∧
    stopped.faultCode ≠ .none ∧ (bin [1, 0, 0, 0, 0, 0, 0, 1, 1]).length = blockBits stopped.msgBits.val := by decide

/-- V-RX-2, third block: position 6 is flipped. -/
theorem witness_ReceiveBlockAppendsTheSentChunk :
    (room (inFrame cfg5 (bin [0, 0, 0, 0, 1, 0, 1, 0, 1, 0])) 5).faultCode = .none ∧
    (bin [1, 0, 0, 1, 0]).length = (room (inFrame cfg5 (bin [0, 0, 0, 0, 1, 0, 1, 0, 1, 0])) 5).msgBits.val ∧
    (room (inFrame cfg5 (bin [0, 0, 0, 0, 1, 0, 1, 0, 1, 0])) 5).Fits (bin [1, 0, 0, 1, 0]).length ∧
    AtMostOneFlip (eccEncode 5 (bin [1, 0, 0, 1, 0])) (bin [0, 0, 1, 1, 0, 1, 1, 0, 0]) ∧
    (room (inFrame cfg5 (bin [0, 0, 0, 0, 1, 0, 1, 0, 1, 0])) 5).fsm = .inFrame ∧
    ¬ delim <:+ bin [0, 0, 0, 0, 1, 0, 1, 0, 1, 0] ++ bin [1, 0, 0, 1, 0] :=
  ⟨rfl, rfl, room_fits _ 5, .inr ⟨6, by decide, by decide, by decide⟩, rfl, by decide⟩

theorem witness_StandardTableHasNoFalseEnd :
    sendFrame lcTableStd cfg5.val [0x41#8] =
      .ok (bin [0, 0, 0, 0, 1, 0, 1, 0, 1, 0, 0, 1, 0, 0, 1, 0, 0, 0, 0, 1]) ∧ 10 ≤ 19 ∧
    19 < (bin [0, 0, 0, 0, 1, 0, 1, 0, 1, 0, 0, 1, 0, 0, 1, 0, 0, 0, 0, 1]).length := ⟨rfl, by decide, by decide⟩

/-- The four chunks of the text `"A"` in the configuration CFG5. -/
def sentChunks : List Bits :=
  [bin [0, 0, 0, 0, 1], bin [0, 1, 0, 1, 0], bin [0, 1, 0, 0, 1], bin [0, 0, 0, 0, 1]]

theorem atMostOneFlip_nth (x : Bits) (i : Nat) (h : 1 ≤ i ∧ i ≤ x.length) : AtMostOneFlip x (flipAt x i) :=
  .inr ⟨i, h.1, h.2, rfl⟩

theorem witness_SentTextIsEmittedByTheReceiver :
    (after cfg5).msgBits = (room (after cfg5) 20).msgBits ∧ (after cfg5).lcTable = (room (after cfg5) 20).lcTable ∧
    (room (after cfg5) 20).Ready ∧
    exec (.txSend [0x41#8]) (after cfg5) = .next ((after cfg5).transmit (sentChunks.map (eccEncode 5))) ∧
    List.Forall₂ AtMostOneFlip (sentChunks.map (eccEncode 5))
      [flipAt (eccEncode 5 (bin [0, 0, 0, 0, 1])) 1, flipAt (eccEncode 5 (bin [0, 1, 0, 1, 0])) 9,
       eccEncode 5 (bin [0, 1, 0, 0, 1]), flipAt (eccEncode 5 (bin [0, 0, 0, 0, 1])) 4] ∧
    sendFrame (room (after cfg5) 20).lcTable 5 [0x41#8] =
      .ok (bin [0, 0, 0, 0, 1, 0, 1, 0, 1, 0, 0, 1, 0, 0, 1, 0, 0, 0, 0, 1]) ∧
    NoFalseEnd 5 (bin [0, 0, 0, 0, 1, 0, 1, 0, 1, 0, 0, 1, 0, 0, 1, 0, 0, 0, 0, 1]) ∧ (room (after cfg5) 20).Fits 20 := by
  refine ⟨rfl, rfl, ⟨rfl, rfl, rfl⟩, rfl, ?_, rfl, ?_, room_fits _ 20⟩
  · exact .cons (atMostOneFlip_nth _ _ (by decide)) (.cons (atMostOneFlip_nth _ _ (by decide)) (.cons (.inl rfl)
      (.cons (atMostOneFlip_nth _ _ (by decide)) .nil)))
  · intro k h₁ h₂
    have h₃ : k < 4 := by
      have : (bin [0, 0, 0, 0, 1, 0, 1, 0, 1, 0, 0, 1, 0, 0, 1, 0, 0, 0, 0, 1]).length = 20 := rfl
      omega
    have h₄ : 2 ≤ k := by omega
    interval_cases k <;> decide

end Sys2Proof.Tests
end

section
/-! SUPPORT. What every instruction leaves unchanged, and what the result of an instruction that is no receive operation and no
reset can depend on (10_state.md R24, R26, R31). -/

namespace Sys2Proof.Machine

/-! ## Operations that write the outputs alone -/

/-- `s` with a result at `RESULT` and blocks at `TX_BLOCKS`, no message, and nothing else changed (10_state.md R30, R31). -/
def State.output (s : State) (o : Result × List Bits) : State :=
  { s with result := o.1, msgOut := none, txBlocks := o.2 }

/-- What stands at `RESULT` after a stateless operation that may fault (60_exceptions.md R185 (a)). -/
def answerResult : Except Raised Value → Result
  | .ok v => .done v
  | .error f => .fault f.code f.unit

theorem State.answer_eq_output (s : State) (r : Except Raised Value) : s.answer r = s.output (answerResult r, []) := by
  cases r with
  | ok v => rfl
  | error f => rfl

/-- In every state the instruction writes the outputs alone, with values that are a function of MSG_BITS and the table
(10_state.md R31). -/
def HasPureOutput (i : Instr) : Prop :=
  ∃ f : MsgBits → LcTable → Result × List Bits, ∀ s : State, exec i s = .next (s.output (f s.msgBits s.lcTable))

section PureOutputRules

variable {i : Instr}

theorem HasPureOutput.of_returns (v : MsgBits → LcTable → Value)
    (h : ∀ s, exec i s = .next (s.returns (v s.msgBits s.lcTable))) : HasPureOutput i :=
  ⟨fun m t => (.done (v m t), []), h⟩

theorem HasPureOutput.of_answer (r : MsgBits → LcTable → Except Raised Value)
    (h : ∀ s, exec i s = .next (s.answer (r s.msgBits s.lcTable))) : HasPureOutput i :=
  ⟨fun m t => (answerResult (r m t), []), fun s => by rw [h, State.answer_eq_output]⟩

/-- An operation that refuses the operands its type forbids (20_memory.md R47) decides so by MSG_BITS. -/
theorem HasPureOutput.of_guard (c : MsgBits → Prop) [DecidablePred c] (v : MsgBits → Value)
    (h : ∀ s, exec i s = if c s.msgBits then .next s.refuse else .next (s.returns (v s.msgBits))) : HasPureOutput i := by
  refine ⟨fun m _ => (if c m then .refused else .done (v m), []), fun s => ?_⟩
  rw [h]
  by_cases hc : c s.msgBits
  · simp only [if_pos hc]; rfl
  · simp only [if_neg hc]; rfl

end PureOutputRules

/-! ## The look-up of one symbol -/

/-- A string of the width of a grouping is its one piece (30_encoding.md R69). -/
theorem groups_toBits {w : Nat} (hw : 0 < w) (v : BitVec w) : groups w (toBits v) = [toBits v] := by
  simpa [groups_nil] using groups_append hw (toBits v) [] (toBits_length v)

theorem lineDecode_toBits (t : LcTable) (w : Symbol) : lineDecode t (toBits w) = decodePieces t [toBits w] := by
  simp [lineDecode, groups_toBits]

/-- The look-up of one symbol is LC.DEC of that symbol alone (42_linecoder.md R112). -/
theorem State.lookUp_eq_answer (s : State) (w : Symbol) :
    s.lookUp w = s.answer ((lineDecode s.lcTable (toBits w)).map .bits) := by
  rw [lineDecode_toBits]
  cases h : lcDecEntry s.lcTable w with
  | none => simp [State.lookUp, decodePieces, h, Except.map]
  | some k => simp [State.lookUp, decodePieces, h, Except.map]

/-- A symbol row runs as the look-up of its word (30_encoding.md R62, log 6). -/
theorem exec_decodeSymbol (w : Symbol) (s : State) : exec (decodeSymbol w) s = .next (s.lookUp w) := by
  obtain ⟨⟨n, hn⟩⟩ := w
  interval_cases n <;> rfl

theorem HasPureOutput.of_lookUp {i : Instr} (w : Symbol) (h : ∀ s, exec i s = .next (s.lookUp w)) : HasPureOutput i :=
  .of_answer (fun _ t => (lineDecode t (toBits w)).map .bits) fun s => by rw [h, State.lookUp_eq_answer]

/-! ## The instructions -/

/-- The outputs of TX.SEND: the blocks once all of them are computed, or the fault and no block (46_pipeline.md R172). -/
def sendOutput : Except Raised (List Bits) → Result × List Bits
  | .ok bs => (.done (.list bs), bs)
  | .error f => (.fault f.code f.unit, [])

theorem exec_txSend (t : List Byte) (s : State) :
    exec (.txSend t) s = .next (s.output (sendOutput (sendBlocks s.lcTable s.msgBits.val t))) := by
  simp only [exec, execTxSend]
  cases sendBlocks s.lcTable s.msgBits.val t with
  | ok bs => rfl
  | error f => rfl

/-- Every instruction but RSM.PUSH, RX.BLOCK and SYS.RESET is stateless (10_state.md R31). -/
theorem hasPureOutput_of_ne {i : Instr} (hpush : ∀ d, i ≠ .rsmPush d) (hblock : ∀ x, i ≠ .rxBlock x)
    (hreset : i ≠ .sysReset) : HasPureOutput i := by
  cases i with
  | bcTobin t => exact .of_returns (fun _ _ => .bits (toBinary t)) fun _ => rfl
  | bcFrombin b => exact .of_answer (fun _ _ => (fromBinary b).map .text) fun _ => rfl
  | padMin len k => exact .of_guard (fun _ => k = 0) (fun _ => .nat (minPadBits len k)) fun _ => rfl
  | padApply b k => exact .of_returns (fun _ _ => .bits (padFront b k)) fun _ => rfl
  | lcEnc b => exact .of_answer (fun _ lc => (lineEncode lc b).map .bits) fun _ => rfl
  | lcDec b => exact .of_answer (fun _ lc => (lineDecode lc b).map .bits) fun _ => rfl
  | frFrame b => exact .of_returns (fun _ _ => .bits (frame b)) fun _ => rfl
  | frDeframe b => exact .of_answer (fun _ _ => (deframe b).map .bits) fun _ => rfl
  | eccRed k => exact .of_guard (fun _ => k = 0) (fun _ => .nat (redBits k)) fun _ => rfl
  | eccEnc d => exact .of_guard (fun m => d.length ≠ m.val) (fun m => .bits (eccEncode m.val d)) fun _ => rfl
  | eccCor b => exact .of_guard (fun m => b.length ≠ blockBits m.val) (fun m => .bits (eccCorrect m.val b)) fun _ => rfl
  | eccExt b => exact .of_guard (fun m => b.length ≠ blockBits m.val) (fun m => .bits (eccExtract m.val b)) fun _ => rfl
  | rsmPush d => exact absurd rfl (hpush d)
  | txChunk f => exact .of_answer (fun m _ => (chunk m.val f).map .list) fun _ => rfl
  | txSend t => exact ⟨fun m lc => sendOutput (sendBlocks lc m.val t), exec_txSend t⟩
  | rxBlock x => exact absurd rfl (hblock x)
  | sysReset => exact absurd rfl hreset
  | blockCfg1 p d => exact .of_returns (fun _ _ => .reading (readBlock 1 (toBits p) (toBits d))) fun _ => rfl
  | blockCfg4 p d => exact .of_returns (fun _ _ => .reading (readBlock 4 (toBits p) (toBits d))) fun _ => rfl
  | blockCfg5 p d => exact .of_returns (fun _ _ => .reading (readBlock 5 (toBits p) (toBits d))) fun _ => rfl
  | blockCfg10 p d => exact .of_returns (fun _ _ => .reading (readBlock 10 (toBits p) (toBits d))) fun _ => rfl
  | blockCfg11 p d => exact .of_returns (fun _ _ => .reading (readBlock 11 (toBits p) (toBits d))) fun _ => rfl
  | blockCfg20 p d => exact .of_returns (fun _ _ => .reading (readBlock 20 (toBits p) (toBits d))) fun _ => rfl
  | _ => exact .of_lookUp _ fun _ => rfl

/-! ## What only a reset or the host writes -/

/-- `t` has the sampled MSG_BITS, the parameters and the inputs of `s` (10_state.md R24, R26, R30, 00_scope.md R11). -/
structure State.SameParams (s t : State) : Prop where
  msgBits : t.msgBits = s.msgBits
  cfgMsgBits : t.cfgMsgBits = s.cfgMsgBits
  lcTable : t.lcTable = s.lcTable
  bufCap : t.bufCap = s.bufCap
  input : t.input = s.input

theorem State.endTest_sameParams (s : State) : s.SameParams s.endTest := by
  obtain ⟨-, h⟩ | ⟨-, ⟨t, -, h⟩ | ⟨f, -, h⟩⟩ := s.endTest_cases
  all_goals rw [h]; exact ⟨rfl, rfl, rfl, rfl, rfl⟩

theorem State.startTest_sameParams (s : State) : s.SameParams s.startTest := by
  obtain ⟨-, -, -, h⟩ | ⟨-, -, -, h⟩ | ⟨-, h⟩ := s.startTest_cases
  · rw [h]; exact ⟨rfl, rfl, rfl, rfl, rfl⟩
  · obtain ⟨hm, hc, ht, hb, hi⟩ := s.enterFrame.endTest_sameParams
    rw [h]; exact ⟨hm, hc, ht, hb, hi⟩
  · rw [h]; exact s.endTest_sameParams

theorem State.push_sameParams (s : State) (d : Bits) : s.SameParams (s.push d) := by
  obtain ⟨-, h⟩ | ⟨-, -, -, h⟩ | ⟨-, -, -, h⟩ := s.push_cases d
  · rw [h]; exact ⟨rfl, rfl, rfl, rfl, rfl⟩
  · rw [h]; exact ⟨rfl, rfl, rfl, rfl, rfl⟩
  · obtain ⟨hm, hc, ht, hb, hi⟩ := (s.append d).startTest_sameParams
    rw [h]; exact ⟨hm, hc, ht, hb, hi⟩

/-- Every instruction but SYS.RESET has a next state with the same parameters; SYS.RESET restarts the core. -/
theorem exec_restart_or_sameParams (i : Instr) (s : State) :
    (i = .sysReset ∧ exec i s = .next s.restart) ∨ ∃ t, exec i s = .next t ∧ s.SameParams t := by
  by_cases hreset : i = .sysReset
  · subst hreset
    exact .inl ⟨rfl, rfl⟩
  right
  by_cases hpush : ∃ d, i = .rsmPush d
  · obtain ⟨d, rfl⟩ := hpush
    exact ⟨_, rfl, s.push_sameParams d⟩
  by_cases hblock : ∃ x, i = .rxBlock x
  · obtain ⟨x, rfl⟩ := hblock
    obtain ⟨-, h⟩ | ⟨-, -, h⟩ := execRxBlock_cases s x
    · exact ⟨_, h, rfl, rfl, rfl, rfl, rfl⟩
    · exact ⟨_, h, s.push_sameParams _⟩
  · obtain ⟨f, hf⟩ := hasPureOutput_of_ne (not_exists.mp hpush) (not_exists.mp hblock) hreset
    exact ⟨_, hf s, rfl, rfl, rfl, rfl, rfl⟩

/-! ## The codes of STATE -/

theorem RsmState.code_eq_zero_iff (f : RsmState) : f.code = 0#1 ↔ f = .awaitingStart := by
  cases f <;> decide

theorem RsmState.code_eq_one_iff (f : RsmState) : f.code = 1#1 ↔ f = .inFrame := by
  cases f <;> decide

/-! ## The step, by what stands first -/

theorem step_of_input_nil {s : State} (h : s.input = []) : step s = .next s.endOperation := by
  simp [step, h]

theorem step_of_input_cons {s : State} {r : Request} {rest : List Request} (h : s.input = r :: rest) :
    step s = (s.withInput rest).perform r := by
  simp [step, h]

/-- The host has presented a reset first: the RESET input, or the selector of SYS.RESET (70_reset_and_hazards.md R210). -/
def State.PresentsReset (s : State) : Prop :=
  ∃ rest, s.input = .resetInput :: rest ∨ ∃ p, s.input = .present p :: rest ∧ decode p = .ok .sysReset

/-- A step writes neither the table nor the capacity, and samples MSG_BITS only where the host presents a reset
(10_state.md R24, R26). -/
theorem step_params {s t : State} (h : step s = .next t) :
    t.lcTable = s.lcTable ∧ t.bufCap = s.bufCap ∧
      (t.msgBits = s.msgBits ∨ t.msgBits = s.cfgMsgBits ∧ s.PresentsReset) := by
  obtain ⟨-, hs⟩ | ⟨p, rest, i, hi, hd, hs⟩ | ⟨p, rest, e, -, -, hs⟩ | ⟨rest, hi, hs⟩ | ⟨m, rest, -, hs⟩ := step_cases s
  all_goals rw [hs] at h
  · cases h; exact ⟨rfl, rfl, .inl rfl⟩
  · obtain ⟨rfl, he⟩ | ⟨u, he, hu⟩ := exec_restart_or_sameParams i (s.withInput rest)
    · rw [he] at h
      cases h
      exact ⟨rfl, rfl, .inr ⟨rfl, rest, .inr ⟨p, hi, hd⟩⟩⟩
    · rw [he] at h
      cases h
      exact ⟨hu.lcTable, hu.bufCap, .inl hu.msgBits⟩
  · cases h; exact ⟨rfl, rfl, .inl rfl⟩
  · cases h; exact ⟨rfl, rfl, .inr ⟨rfl, rest, .inl hi⟩⟩
  · cases h; exact ⟨rfl, rfl, .inl rfl⟩

end Sys2Proof.Machine
end

section
/-! SUPPORT. The obligations about the state, its reset values and its status (10_state.md). -/

namespace Sys2Proof.Proofs

open Sys2Proof.Machine

/-- Settles O14: the inversion of a step by what the host presented, and what each instruction keeps. -/
theorem msgBitsSampledAtResetOnly : Obligations.MsgBitsSampledAtResetOnly := by
  intro s t h
  obtain ⟨-, -, hm⟩ := step_params h
  exact hm

/-- Settles O15: no arm of a step writes either. -/
theorem tablesAndCapacityNeverWritten : Obligations.TablesAndCapacityNeverWritten := by
  intro s t h
  obtain ⟨ht, hb, -⟩ := step_params h
  exact ⟨ht, hb⟩

/-- Settles O16: one function of MSG_BITS and the table gives the outputs in every state. -/
theorem statelessOperationsTouchNoState : Obligations.StatelessOperationsTouchNoState := by
  intro op a i _ hpush hblock hreset s t h
  obtain ⟨f, hf⟩ := hasPureOutput_of_ne hpush hblock hreset
  rw [hf] at h
  cases h
  refine ⟨rfl, fun s' t' hm hl h' => ?_⟩
  rw [hf, hm, hl] at h'
  cases h'
  exact ⟨rfl, rfl⟩

/-- Settles O4, from the two equations of a step. -/
theorem configureAndIdleSteps : Obligations.ConfigureAndIdleSteps :=
  ⟨fun _ _ _ h => step_of_input_cons h, fun _ h => step_of_input_nil h⟩

/-- Settles O11: the fields of the reset state as it is written. -/
theorem resetStateHoldsTheResetValues : Obligations.ResetStateHoldsTheResetValues :=
  ⟨rfl, rfl, rfl, rfl, rfl⟩

/-- Settles O13: STATUS is a copy of the fields, and the two codes of STATE differ. -/
theorem statusShowsTheState : Obligations.StatusShowsTheState := by
  exact ⟨fun s => ⟨rfl, rfl, rfl, rfl, s.fsm.code_eq_zero_iff, s.fsm.code_eq_one_iff, rfl, rfl⟩, rfl, rfl⟩

/-- Settles O28: both sides are the look-up of the symbol. -/
theorem symbolRowIsDecodeOfOneSymbol : Obligations.SymbolRowIsDecodeOfOneSymbol := by
  intro w s
  calc exec (decodeSymbol w) s
      _ = .next (s.lookUp w) := exec_decodeSymbol w s
      _ = .next (s.answer ((lineDecode s.lcTable (toBits w)).map .bits)) := by rw [State.lookUp_eq_answer]
      _ = exec (.lcDec (toBits w)) s := rfl

end Sys2Proof.Proofs
end

section
/-! SUPPORT. Where the parity and the data positions of a block stand: `RED_BITS` is the smallest `r` of 00_scope.md R8, so the
powers of two of a block are exactly the first `r` (20_memory.md R53). -/

namespace Sys2Proof.Machine

/-! ## RED_BITS and BLOCK_BITS -/

/-- From an `r` below which nothing qualifies, the loop of ECC.RED finds the smallest bound, provided its fuel reaches one
(44_hamming.md R130). -/
theorem redSearch_isLeast {m fuel r : Nat} (hbelow : ∀ j < r, ¬ m + j + 1 ≤ 2 ^ j)
    (hreach : m + (r + fuel) + 1 ≤ 2 ^ (r + fuel)) : IsLeast {k | m + k + 1 ≤ 2 ^ k} (redSearch m fuel r) := by
  induction fuel generalizing r with
  | zero => exact ⟨hreach, fun k hk => not_lt.mp fun hlt => hbelow k hlt hk⟩
  | succ fuel ih =>
    unfold redSearch
    by_cases hr : m + r + 1 ≤ 2 ^ r
    · rw [if_pos hr]
      exact ⟨hr, fun k hk => not_lt.mp fun hlt => hbelow k hlt hk⟩
    · rw [if_neg hr]
      refine ih (fun j hj => ?_) (by rwa [Nat.add_right_comm r 1 fuel])
      obtain hlt | rfl := Nat.lt_succ_iff_lt_or_eq.mp hj
      · exact hbelow j hlt
      · exact hr

/-- `RED_BITS` is the smallest `r` with `m + r + 1 ≤ 2^r` (00_scope.md R8): the fuel `m + 1` reaches `2·(m + 1) ≤ 2^(m+1)`. -/
theorem redBits_isLeast (m : Nat) : IsLeast {k | m + k + 1 ≤ 2 ^ k} (redBits m) := by
  refine redSearch_isLeast (fun j hj => absurd hj j.not_lt_zero) ?_
  have : m < 2 ^ m := Nat.lt_two_pow_self
  rw [Nat.zero_add, Nat.pow_succ]
  omega

/-- A number of parity bits below `RED_BITS` is too small (00_scope.md R8). -/
theorem two_pow_lt_of_lt_redBits {m j : Nat} (h : j < redBits m) : 2 ^ j < m + j + 1 := by
  by_contra hle
  exact absurd ((redBits_isLeast m).2 (not_lt.mp hle)) (not_le.mpr h)

theorem blockBits_lt_two_pow (m : Nat) : blockBits m < 2 ^ redBits m :=
  (redBits_isLeast m).1

theorem redBits_pos {m : Nat} (hm : 0 < m) : 0 < redBits m := by
  by_contra h
  have hn := blockBits_lt_two_pow m
  rw [blockBits, Nat.eq_zero_of_not_pos h] at hn
  omega

/-- The lower bound of `2^(r−1) < n < 2^r`, from the minimality of `r` (20_memory.md R53). -/
theorem two_pow_pred_lt_blockBits {m : Nat} (hm : 0 < m) : 2 ^ (redBits m - 1) < blockBits m := by
  have hr := redBits_pos hm
  have := two_pow_lt_of_lt_redBits (Nat.sub_one_lt_of_lt hr)
  rw [blockBits]
  omega

/-- Every parity position stands before the last position of the block (44_hamming.md R131). -/
theorem two_pow_lt_blockBits {m j : Nat} (hm : 0 < m) (hj : j < redBits m) : 2 ^ j < blockBits m :=
  calc 2 ^ j
      _ ≤ 2 ^ (redBits m - 1) := Nat.pow_le_pow_right Nat.two_pos (Nat.le_sub_one_of_lt hj)
      _ < blockBits m := two_pow_pred_lt_blockBits hm

/-- The powers of two in the block are the first `RED_BITS` of them (20_memory.md R53). -/
theorem two_pow_le_blockBits_iff {m j : Nat} (hm : 0 < m) : 2 ^ j ≤ blockBits m ↔ j < redBits m := by
  constructor
  · intro h
    exact (Nat.pow_lt_pow_iff_right Nat.one_lt_two).mp (h.trans_lt (blockBits_lt_two_pow m))
  · exact fun h => (two_pow_lt_blockBits hm h).le

/-- The last position of a block is a data position: every power of two in the block stands before it (44_hamming.md R131). -/
theorem isPow2_blockBits {m : Nat} (hm : 0 < m) : isPow2 (blockBits m) = false := by
  by_contra h
  obtain ⟨j, hj⟩ := (isPow2_iff _).mp (by simpa using h)
  exact (two_pow_lt_blockBits hm ((two_pow_le_blockBits_iff hm).mp hj.ge)).ne hj.symm

/-! ## The lists of positions -/

theorem positions_succ (n : Nat) : positions (n + 1) = positions n ++ [n + 1] := by
  rw [positions, positions, List.range'_1_concat, Nat.add_comm 1 n]

theorem positions_pairwise_lt (n : Nat) : (positions n).Pairwise (· < ·) :=
  List.pairwise_lt_range'

theorem dataPositions_pairwise_lt (n : Nat) : (dataPositions n).Pairwise (· < ·) :=
  (positions_pairwise_lt n).filter _

@[simp] theorem parityPositions_length (r : Nat) : (parityPositions r).length = r := by
  simp [parityPositions]

theorem parityPositions_pairwise_lt (r : Nat) : (parityPositions r).Pairwise (· < ·) :=
  List.pairwise_lt_range.map _ fun _ _ h => Nat.pow_lt_pow_right Nat.one_lt_two h

/-- The powers of two among the positions of a block are its parity positions, in the same order (20_memory.md R53). -/
theorem filter_isPow2_positions {m : Nat} (hm : 0 < m) :
    (positions (blockBits m)).filter isPow2 = parityPositions (redBits m) := by
  refine ((positions_pairwise_lt _).filter _).eq_of_mem_iff (parityPositions_pairwise_lt _) fun i => ?_
  rw [List.mem_filter, mem_positions, isPow2_iff, mem_parityPositions]
  constructor
  · rintro ⟨⟨-, hle⟩, j, rfl⟩
    exact ⟨j, (two_pow_le_blockBits_iff hm).mp hle, rfl⟩
  · rintro ⟨j, hj, rfl⟩
    exact ⟨⟨Nat.one_le_two_pow, (two_pow_le_blockBits_iff hm).mpr hj⟩, j, rfl⟩

/-- A block has `MSG_BITS` data positions: the `n` positions less the `r` parity positions (44_hamming.md R131). -/
theorem dataPositions_length {m : Nat} (hm : 0 < m) : (dataPositions (blockBits m)).length = m := by
  have hsplit := List.length_eq_length_filter_add (l := positions (blockBits m)) isPow2
  rw [filter_isPow2_positions hm, positions_length, parityPositions_length, blockBits] at hsplit
  rw [dataPositions, blockBits]
  omega

/-- The last data position is the last position of the block (44_hamming.md R131). -/
theorem dataPositions_getLast? {m : Nat} (hm : 0 < m) :
    (dataPositions (blockBits m)).getLast? = some (blockBits m) := by
  have hlast := isPow2_blockBits hm
  obtain ⟨k, hk⟩ : ∃ k, blockBits m = k + 1 := ⟨blockBits m - 1, by rw [blockBits]; omega⟩
  rw [hk] at hlast ⊢
  simp [dataPositions, positions_succ, hlast]

/-! ## A presented packet -/

/-- A packet that decodes is performed as its instruction (20_memory.md R50). -/
theorem State.perform_present {p : Packet} {i : Instr} (s : State) (h : decode p = .ok i) :
    s.perform (.present p) = exec i s := by
  simp [State.perform, h]

end Sys2Proof.Machine
end

section
/-! SUPPORT. The obligations about the order of operations and the spaces of positions (20_memory.md). -/

namespace Sys2Proof.Proofs

open Sys2Proof.Machine

/-- Settles O32: `2^(r−1) < n < 2^r` by the minimality of `r`, so the powers of two up to `n` are the first `r`. -/
theorem blockPositionsSplit : Obligations.BlockPositionsSplit := by
  intro ⟨m, hm⟩
  refine ⟨two_pow_pred_lt_blockBits hm, blockBits_lt_two_pow m, filter_isPow2_positions hm, dataPositions_length hm,
    dataPositions_pairwise_lt _, fun i => ?_, dataPositions_getLast? hm⟩
  rw [mem_dataPositions, ← isPow2_iff, Bool.not_eq_true]

/-- Settles O1: the step performs what stands first, and a packet that decodes is performed as its instruction. -/
theorem stepRunsDecodedInstruction : Obligations.StepRunsDecodedInstruction := by
  intro s p rest i hinput hdecode
  calc step s
      _ = (s.withInput rest).perform (.present p) := step_of_input_cons hinput
      _ = exec i (s.withInput rest) := State.perform_present _ hdecode
      _ = exec i { s with input := rest } := rfl

end Sys2Proof.Proofs
end

section
/-! SUPPORT. The decoder and the encoder as inverses, format by format: selectors, symbols, block layouts (30_encoding.md). -/

namespace Sys2Proof

open Machine

/-! ## Selectors -/

/-- The seventeen selectors of 30_encoding.md R75, in its order. -/
def operationSelectors : List (BitVec 8) :=
  [0x10#8, 0x11#8, 0x20#8, 0x21#8, 0x30#8, 0x31#8, 0x40#8, 0x41#8, 0x50#8, 0x51#8, 0x52#8, 0x53#8, 0x60#8, 0x70#8, 0x71#8,
    0x72#8, 0xF0#8]

/-- A selector of the table names an operation, and the encoder gives that operation the same selector (30_encoding.md R75). -/
theorem decodeOp_of_mem {op : BitVec 8} (h : op ∈ operationSelectors) (a : Operands) :
    ∃ i, decodeOp op a = .ok i ∧ ∃ a', encode i = .op op a' := by
  simp only [operationSelectors, List.mem_cons, List.not_mem_nil, or_false] at h
  rcases h with rfl | rfl | rfl | rfl | rfl | rfl | rfl | rfl | rfl | rfl | rfl | rfl | rfl | rfl | rfl | rfl | rfl
  all_goals exact ⟨_, rfl, _, rfl⟩

/-- Every other selector is reserved (30_encoding.md R76). -/
theorem decodeOp_of_not_mem {op : BitVec 8} (h : op ∉ operationSelectors) (a : Operands) :
    decodeOp op a = .error (.reservedSelector op) := by
  unfold decodeOp
  split
  case h_18 => rfl
  all_goals
    rename_i hop
    have hword : BitVec.ofNat 8 op.toNat = op := by simp
    rw [← hword, hop] at h
    exact absurd (by decide) h

/-! ## Symbols -/

/-- Every word of the symbol space is the encoding of its row (30_encoding.md R62). -/
theorem encode_decodeSymbol (w : Symbol) : encode (decodeSymbol w) = .symbol w := by
  obtain ⟨⟨n, hn⟩⟩ := w
  interval_cases n <;> rfl

/-! ## Block layouts -/

/-- `mk` is the row of the blocks laid out by `l`: the layout has `r` parity and `m` data positions, and the decoder and the
encoder read and write the two fields there (30_encoding.md R65, R67). -/
structure IsBlockRow (l : List Role) {r m : Nat} (mk : BitVec r → BitVec m → Instr) : Prop where
  parity_count : l.count .parity = r
  data_count : l.count .data = m
  decodeBlock_eq : ∀ b : Bits, b.length = l.length →
    decodeBlock b = .ok (mk (ofBits r (pick .parity l b)) (ofBits m (pick .data l b)))
  encode_eq : ∀ p d, encode (mk p d) = .block (weave l (toBits p) (toBits d))

namespace IsBlockRow

variable {l : List Role} {r m : Nat} {mk : BitVec r → BitVec m → Instr}

/-- The decoder reads from a woven block the two fields woven into it. -/
theorem decode_encode (h : IsBlockRow l mk) (p : BitVec r) (d : BitVec m) : decode (encode (mk p d)) = .ok (mk p d) := by
  have hp : (toBits p).length = l.count .parity := by rw [toBits_length, h.parity_count]
  have hd : (toBits d).length = l.count .data := by rw [toBits_length, h.data_count]
  rw [h.encode_eq, decode, h.decodeBlock_eq _ (weave_length l _ _), pick_parity_weave l _ _ hp, pick_data_weave l _ _ hd,
    ofBits_toBits, ofBits_toBits]

/-- The encoder weaves the two fields read from a block to that block. -/
theorem encode_of_decodeBlock (h : IsBlockRow l mk) {b : Bits} {i : Instr} (hb : b.length = l.length)
    (hi : decodeBlock b = .ok i) : encode i = .block b := by
  rw [h.decodeBlock_eq b hb] at hi
  cases hi
  rw [h.encode_eq, toBits_ofBits _ (by rw [pick_length _ _ _ hb, h.parity_count]),
    toBits_ofBits _ (by rw [pick_length _ _ _ hb, h.data_count]), weave_pick l b hb]

end IsBlockRow

theorem isBlockRow_cfg1 : IsBlockRow layoutCfg1 .blockCfg1 :=
  ⟨rfl, rfl, fun b (hb : b.length = 3) => by simp [decodeBlock, hb], fun _ _ => rfl⟩

theorem isBlockRow_cfg4 : IsBlockRow layoutCfg4 .blockCfg4 :=
  ⟨rfl, rfl, fun b (hb : b.length = 7) => by simp [decodeBlock, hb], fun _ _ => rfl⟩

theorem isBlockRow_cfg5 : IsBlockRow layoutCfg5 .blockCfg5 :=
  ⟨rfl, rfl, fun b (hb : b.length = 9) => by simp [decodeBlock, hb], fun _ _ => rfl⟩

theorem isBlockRow_cfg10 : IsBlockRow layoutCfg10 .blockCfg10 :=
  ⟨rfl, rfl, fun b (hb : b.length = 14) => by simp [decodeBlock, hb], fun _ _ => rfl⟩

theorem isBlockRow_cfg11 : IsBlockRow layoutCfg11 .blockCfg11 :=
  ⟨rfl, rfl, fun b (hb : b.length = 15) => by simp [decodeBlock, hb], fun _ _ => rfl⟩

theorem isBlockRow_cfg20 : IsBlockRow layoutCfg20 .blockCfg20 :=
  ⟨rfl, rfl, fun b (hb : b.length = 25) => by simp [decodeBlock, hb], fun _ _ => rfl⟩

/-- The encoder gives back every block that decodes: it has the length of one of the named layouts (30_encoding.md R67). -/
theorem encode_of_decodeBlock {b : Bits} {i : Instr} (h : decodeBlock b = .ok i) : encode i = .block b := by
  have hi := h
  unfold decodeBlock at h
  split at h
  case h_1 hb => exact isBlockRow_cfg1.encode_of_decodeBlock hb hi
  case h_2 hb => exact isBlockRow_cfg4.encode_of_decodeBlock hb hi
  case h_3 hb => exact isBlockRow_cfg5.encode_of_decodeBlock hb hi
  case h_4 hb => exact isBlockRow_cfg10.encode_of_decodeBlock hb hi
  case h_5 hb => exact isBlockRow_cfg11.encode_of_decodeBlock hb hi
  case h_6 hb => exact isBlockRow_cfg20.encode_of_decodeBlock hb hi
  case h_7 => cases h

/-! ## Every instruction -/

/-- The decoder undoes the encoder on every row of the table (30_encoding.md R62, R67, R75). -/
theorem decode_encode (i : Instr) : decode (encode i) = .ok i := by
  cases i with
  | blockCfg1 p d => exact isBlockRow_cfg1.decode_encode p d
  | blockCfg4 p d => exact isBlockRow_cfg4.decode_encode p d
  | blockCfg5 p d => exact isBlockRow_cfg5.decode_encode p d
  | blockCfg10 p d => exact isBlockRow_cfg10.decode_encode p d
  | blockCfg11 p d => exact isBlockRow_cfg11.decode_encode p d
  | blockCfg20 p d => exact isBlockRow_cfg20.decode_encode p d
  | _ => rfl

end Sys2Proof

namespace Sys2Proof.Machine

/-- A packet that is no instruction is refused (30_encoding.md R76). -/
theorem State.perform_present_error {p : Packet} {e : DecodeError} (s : State) (h : decode p = .error e) :
    s.perform (.present p) = .next s.refuse := by
  simp [State.perform, h]

end Sys2Proof.Machine
end

section
/-! SUPPORT. The blocks of every configuration by their layout: reading back the two fields, and which parity field makes the block valid
(30_encoding.md R65, R66, 44_hamming.md R133). -/

namespace Sys2Proof.Machine

/-! ## The fields of a block -/

/-- The index of a data position counts the data positions before it, so in order they are numbered from 0 (30_encoding.md R65). -/
theorem map_dataIndex_dataPositions (n : Nat) :
    (dataPositions n).map dataIndex = List.range (dataPositions n).length := by
  induction n with
  | zero => rfl
  | succ n ih =>
    cases h : isPow2 (n + 1) with
    | true =>
      have hsame : dataPositions (n + 1) = dataPositions n := by simp [dataPositions, positions_succ, h]
      rw [hsame, ih]
    | false =>
      have hlast : dataPositions (n + 1) = dataPositions n ++ [n + 1] := by simp [dataPositions, positions_succ, h]
      have hindex : dataIndex (n + 1) = (dataPositions n).length := rfl
      rw [hlast, List.map_append, ih, List.map_singleton, hindex, List.length_append, List.length_singleton,
        List.range_succ]

/-- Reading a list by its indices gives the list back. -/
theorem map_getD_range (l : Bits) : ((List.range l.length).map fun k => l.getD k false) = l := by
  refine List.ext_getElem (by simp) fun k _ hk => ?_
  simp [hk]

theorem bitAt_assemble {n i : Nat} (p d : Bits) (h₁ : 1 ≤ i) (h₂ : i ≤ n) :
    bitAt (assemble n p d) i = if isPow2 i then p.getD i.log2 false else d.getD (dataIndex i) false :=
  bitAt_map_positions _ h₁ h₂

/-- A block is its bits position by position. -/
theorem map_bitAt_positions (b : Bits) : (positions b.length).map (bitAt b) = b :=
  block_ext (by simp) rfl fun _ h₁ h₂ => bitAt_map_positions _ h₁ h₂

/-- The parity bits of an assembled block are the ones it was assembled from. -/
theorem parityBits_assemble {m : Nat} (hm : 0 < m) {p : Bits} (d : Bits) (hp : p.length = redBits m) :
    parityBits m (assemble (blockBits m) p d) = p := by
  calc parityBits m (assemble (blockBits m) p d)
      _ = (List.range p.length).map fun j => p.getD j false := by
        rw [parityBits, parityPositions, List.map_map, hp]
        refine List.map_congr_left fun j hj => ?_
        have hle : 2 ^ j ≤ blockBits m := (two_pow_le_blockBits_iff hm).mpr (List.mem_range.mp hj)
        simp [bitAt_assemble p d Nat.one_le_two_pow hle, (isPow2_iff (2 ^ j)).mpr ⟨j, rfl⟩, Nat.log2_two_pow]
      _ = p := map_getD_range p

/-- The data bits of an assembled block are the ones it was assembled from. -/
theorem eccExtract_assemble {m : Nat} (hm : 0 < m) (p : Bits) {d : Bits} (hd : d.length = m) :
    eccExtract m (assemble (blockBits m) p d) = d := by
  calc eccExtract m (assemble (blockBits m) p d)
      _ = ((dataPositions (blockBits m)).map dataIndex).map fun k => d.getD k false := by
        rw [eccExtract, List.map_map]
        refine List.map_congr_left fun i hi => ?_
        obtain ⟨⟨h₁, h₂⟩, hpow⟩ := mem_dataPositions.mp hi
        simp [bitAt_assemble p d h₁ h₂, hpow]
      _ = (List.range d.length).map fun k => d.getD k false := by
        rw [map_dataIndex_dataPositions, dataPositions_length hm, hd]
      _ = d := map_getD_range d

/-! ## The layout of a configuration -/

/-- What a position holds (30_encoding.md R65): parity at the powers of two, data elsewhere. -/
def roleAt (i : Nat) : Role := if isPow2 i then .parity else .data

/-- The layout of the blocks of `MSG_BITS = m`, position 1 first (30_encoding.md R65, R67). -/
def layoutOf (m : Nat) : List Role := (positions (blockBits m)).map roleAt

/-- Picking a role keeps the entries at the positions of that role. -/
theorem pick_map (role : Role) (f : Nat → Role) (g : Nat → Bool) (l : List Nat) :
    pick role (l.map f) (l.map g) = (l.filter fun i => f i = role).map g := by
  induction l with
  | nil => rfl
  | cons i l ih => by_cases h : f i = role <;> simp [pick, h, ih]

theorem pick_parity_layoutOf {m : Nat} (hm : 0 < m) {b : Bits} (hb : b.length = blockBits m) :
    pick .parity (layoutOf m) b = parityBits m b := by
  have hrole : (fun i => decide (roleAt i = .parity)) = isPow2 := by
    funext i
    cases h : isPow2 i <;> simp [roleAt, h]
  calc pick .parity (layoutOf m) b
      _ = pick .parity ((positions (blockBits m)).map roleAt) ((positions (blockBits m)).map (bitAt b)) := by
        rw [← hb, map_bitAt_positions, layoutOf, hb]
      _ = parityBits m b := by rw [pick_map, hrole, filter_isPow2_positions hm, parityBits]

theorem pick_data_layoutOf {m : Nat} {b : Bits} (hb : b.length = blockBits m) :
    pick .data (layoutOf m) b = eccExtract m b := by
  have hrole : (fun i => decide (roleAt i = .data)) = fun i => !isPow2 i := by
    funext i
    cases h : isPow2 i <;> simp [roleAt, h]
  calc pick .data (layoutOf m) b
      _ = pick .data ((positions (blockBits m)).map roleAt) ((positions (blockBits m)).map (bitAt b)) := by
        rw [← hb, map_bitAt_positions, layoutOf, hb]
      _ = eccExtract m b := by rw [pick_map, hrole, eccExtract, dataPositions]

/-- Weaving the fields by the layout is assembling the block by its positions (30_encoding.md R65). -/
theorem weave_layoutOf {m : Nat} (hm : 0 < m) {p d : Bits} (hp : p.length = redBits m) (hd : d.length = m) :
    weave (layoutOf m) p d = assemble (blockBits m) p d := by
  have hb : (assemble (blockBits m) p d).length = blockBits m := assemble_length _ _ _
  calc weave (layoutOf m) p d
      _ = weave (layoutOf m) (pick .parity (layoutOf m) (assemble (blockBits m) p d))
            (pick .data (layoutOf m) (assemble (blockBits m) p d)) := by
        rw [pick_parity_layoutOf hm hb, pick_data_layoutOf hb, parityBits_assemble hm d hp, eccExtract_assemble hm p hd]
      _ = assemble (blockBits m) p d := weave_pick _ _ (by simp [layoutOf])

/-! ## Validity -/

/-- A parity bit depends on the data positions only (30_encoding.md R66). -/
theorem covParity_congr {a b : Bits} {n p : Nat} (hp : isPow2 p = true)
    (h : ∀ i ∈ dataPositions n, bitAt a i = bitAt b i) : covParity a n p = covParity b n p := by
  have hmap : (cov p n).map (bitAt a) = (cov p n).map (bitAt b) :=
    List.map_congr_left fun i hi => h i (mem_dataPositions.mpr ⟨(mem_cov.mp hi).1, isPow2_of_mem_cov hp hi⟩)
  rw [covParity, covParity, hmap]

theorem validBlock_iff {b : Bits} {n r : Nat} :
    validBlock b n r = true ↔ ∀ p ∈ parityPositions r, covParity b n p = bitAt b p := by
  simp [validBlock, checkFails]

/-- The bit of an encoded chunk at a data position (44_hamming.md R132). -/
theorem bitAt_eccEncode_of_mem_dataPositions {m i : Nat} (d : Bits) (hi : i ∈ dataPositions (blockBits m)) :
    bitAt (eccEncode m d) i = d.getD (dataIndex i) false := by
  obtain ⟨⟨h₁, h₂⟩, hpow⟩ := mem_dataPositions.mp hi
  rw [eccEncode, bitAt_map_positions _ h₁ h₂, hpow, if_neg Bool.false_ne_true, placeData, bitAt_map_positions _ h₁ h₂, hpow,
    if_neg Bool.false_ne_true]

/-- The bit of an encoded chunk at a parity position is the XOR over its coverage set in the encoded chunk (44_hamming.md R132). -/
theorem bitAt_eccEncode_of_isPow2 {m i : Nat} (d : Bits) (hpow : isPow2 i = true) (h₁ : 1 ≤ i) (h₂ : i ≤ blockBits m) :
    bitAt (eccEncode m d) i = covParity (eccEncode m d) (blockBits m) i := by
  have hdata : ∀ k ∈ dataPositions (blockBits m), bitAt (placeData d (blockBits m)) k = bitAt (eccEncode m d) k := by
    intro k hk
    obtain ⟨⟨hk₁, hk₂⟩, hkpow⟩ := mem_dataPositions.mp hk
    rw [bitAt_eccEncode_of_mem_dataPositions d hk, placeData, bitAt_map_positions _ hk₁ hk₂, hkpow,
      if_neg Bool.false_ne_true]
  rw [← covParity_congr hpow hdata, eccEncode, bitAt_map_positions _ h₁ h₂, if_pos hpow]

/-- A block that holds the data bits of `d` is valid exactly when it is the encoding of `d` (44_hamming.md R133). -/
theorem validBlock_iff_eq_eccEncode {m : Nat} (hm : 0 < m) {b d : Bits} (hb : b.length = blockBits m)
    (hd : ∀ i ∈ dataPositions (blockBits m), bitAt b i = d.getD (dataIndex i) false) :
    validBlock b (blockBits m) (redBits m) = true ↔ b = eccEncode m d := by
  have hdata : ∀ i ∈ dataPositions (blockBits m), bitAt b i = bitAt (eccEncode m d) i := fun i hi => by
    rw [hd i hi, bitAt_eccEncode_of_mem_dataPositions d hi]
  rw [validBlock_iff, ← filter_isPow2_positions hm]
  constructor
  · intro hvalid
    refine block_ext hb (eccEncode_length m d) fun i h₁ h₂ => ?_
    cases hpow : isPow2 i with
    | true =>
      have hi : i ∈ (positions (blockBits m)).filter isPow2 := List.mem_filter.mpr ⟨mem_positions.mpr ⟨h₁, h₂⟩, hpow⟩
      rw [← hvalid i hi, covParity_congr hpow hdata, bitAt_eccEncode_of_isPow2 d hpow h₁ h₂]
    | false => exact hdata i (mem_dataPositions.mpr ⟨⟨h₁, h₂⟩, hpow⟩)
  · rintro rfl p hp
    obtain ⟨hpos, hpow⟩ := List.mem_filter.mp hp
    obtain ⟨h₁, h₂⟩ := mem_positions.mp hpos
    exact (bitAt_eccEncode_of_isPow2 d hpow h₁ h₂).symm

/-! ## Reading a block -/

/-- Reading a block by its layout gives the fields it was assembled from, and its validity says whether it is the encoding of its
data (30_encoding.md R67, 44_hamming.md R133). -/
theorem readBlock_eq {m : Nat} (hm : 0 < m) {p d : Bits} (hp : p.length = redBits m) (hd : d.length = m) :
    readBlock m p d =
      ⟨m, redBits m, blockBits m, p, d, decide (weave (layoutOf m) p d = eccEncode m d)⟩ := by
  have hdata : ∀ i ∈ dataPositions (blockBits m), bitAt (assemble (blockBits m) p d) i = d.getD (dataIndex i) false := by
    intro i hi
    obtain ⟨⟨h₁, h₂⟩, hpow⟩ := mem_dataPositions.mp hi
    rw [bitAt_assemble p d h₁ h₂, hpow, if_neg Bool.false_ne_true]
  have hvalid : validBlock (assemble (blockBits m) p d) (blockBits m) (redBits m) =
      decide (assemble (blockBits m) p d = eccEncode m d) := by
    rw [Bool.eq_iff_iff, decide_eq_true_iff]
    exact validBlock_iff_eq_eccEncode hm (assemble_length _ p d) hdata
  rw [readBlock, parityBits_assemble hm d hp, eccExtract_assemble hm p hd, weave_layoutOf hm hp hd, hvalid]

/-- The state after a block row, for a layout and widths that are those of its configuration. -/
theorem State.returns_readBlock (s : State) {m r n : Nat} {l : List Role} (hm : 0 < m) (hl : layoutOf m = l)
    (hr : redBits m = r) (hn : blockBits m = n) (p : BitVec r) (d : BitVec m) :
    s.returns (.reading (readBlock m (toBits p) (toBits d))) = { s with
      result := .done (.reading ⟨m, r, n, toBits p, toBits d,
        decide (weave l (toBits p) (toBits d) = eccEncode m (toBits d))⟩), msgOut := none, txBlocks := [] } := by
  subst hl hr hn
  rw [readBlock_eq hm (toBits_length p) (toBits_length d)]
  rfl

end Sys2Proof.Machine
end

section
/-! SUPPORT. The look-up of a symbol in LC_DEC, the inverse of LC_ENC (10_state.md R26). -/

namespace Sys2Proof.Machine

/-- Two groups with one symbol are one group: WF_LC (a) (00_scope.md R9). -/
theorem lcEncEntry_inj (t : LcTable) {i j : Nat} (hi : i < 16) (hj : j < 16) (h : lcEncEntry t i = lcEncEntry t j) :
    i = j := by
  rw [lcEncEntry, lcEncEntry, dif_pos hi, dif_pos hj] at h
  exact congrArg Fin.val (t.wf.1 ⟨i, hi⟩ ⟨j, hj⟩ h)

/-- LC_DEC gives the group whose symbol it is asked for (10_state.md R26). -/
theorem lcDecEntry_eq_some_iff {t : LcTable} {w : Symbol} {i : Nat} :
    lcDecEntry t w = some i ↔ i < 16 ∧ lcEncEntry t i = w := by
  constructor
  · intro h
    exact ⟨List.mem_range.mp (List.mem_of_find?_eq_some h), by simpa using List.find?_some h⟩
  · rintro ⟨hi, rfl⟩
    cases h : lcDecEntry t (lcEncEntry t i) with
    | none =>
      have := List.find?_eq_none.mp h i (List.mem_range.mpr hi)
      simp at this
    | some j =>
      have hj : j < 16 := List.mem_range.mp (List.mem_of_find?_eq_some h)
      have he : lcEncEntry t j = lcEncEntry t i := by simpa using List.find?_some h
      rw [lcEncEntry_inj t hj hi he]

theorem State.lookUp_of_some {s : State} {w : Symbol} {i : Nat} (h : lcDecEntry s.lcTable w = some i) :
    s.lookUp w = s.returns (.bits (bitsN 4 i)) := by
  simp [State.lookUp, h]

theorem State.lookUp_of_none {s : State} {w : Symbol} (h : lcDecEntry s.lcTable w = none) :
    s.lookUp w = s.raiseStateless ⟨.invalidCodeword, .lc⟩ := by
  simp [State.lookUp, h]

/-- `DELIM` and the 15 reserved control symbols of LC_TABLE_STD (30_encoding.md R62). -/
def stdNonDataSymbols : List Symbol :=
  [delimSym, 0b00000#5, 0b00010#5, 0b00011#5, 0b00100#5, 0b00101#5, 0b00110#5, 0b00111#5, 0b01000#5, 0b01100#5, 0b01101#5,
    0b10000#5, 0b10001#5, 0b11000#5, 0b11001#5, 0b11111#5]

theorem lcDecEntry_std_eq_none : ∀ w ∈ stdNonDataSymbols, lcDecEntry lcTableStd w = none := by
  decide

end Sys2Proof.Machine
end

section
/-! SUPPORT. The obligations about the encoding (30_encoding.md). -/

namespace Sys2Proof.Proofs

open Sys2Proof.Machine

/-- Settles O8: the fields of a block are read where they were woven, and every other row is its own word. -/
theorem decodeOfEncodeIsTheInstruction : Obligations.DecodeOfEncodeIsTheInstruction :=
  decode_encode

/-- Settles O9: the three formats apart; a reserved selector decodes to nothing. -/
theorem encodeOfDecodeIsTheWord : Obligations.EncodeOfDecodeIsTheWord := by
  refine ⟨fun w i h => ?_, fun b i h => encode_of_decodeBlock h, fun op a i h => ?_⟩
  · cases h
    exact encode_decodeSymbol w
  · by_cases hop : op ∈ operationSelectors
    · obtain ⟨j, hj, hencode⟩ := decodeOp_of_mem hop a
      cases h.symm.trans hj
      exact hencode
    · cases h.symm.trans (decodeOp_of_not_mem hop a)

/-- Settles O40: each row's layout and widths are those of its configuration, so one reading lemma serves all six. -/
theorem blockRowsReadTheirFields : Obligations.BlockRowsReadTheirFields := by
  refine fun s => ⟨fun p d => ?_, fun p d => ?_, fun p d => ?_, fun p d => ?_, fun p d => ?_, fun p d => ?_⟩
  all_goals exact congrArg Host.Outcome.next (s.returns_readBlock (by decide) (by decide) (by decide) (by decide) p d)

/-- Settles O3: the selector decodes to nothing, and such a packet is refused. -/
theorem reservedSelectorRefused : Obligations.ReservedSelectorRefused := by
  intro s op a rest hop hinput
  calc step s
      _ = (s.withInput rest).perform (.present (.op op a)) := step_of_input_cons hinput
      _ = .next (s.withInput rest).refuse := State.perform_present_error _ (decodeOp_of_not_mem hop a)

/-- Settles O6: each packet is written out, so the decoder runs on it. -/
theorem writtenPacketsDecode : Obligations.WrittenPacketsDecode :=
  ⟨rfl, rfl, rfl, rfl, rfl, rfl, rfl, rfl, rfl⟩

/-- Settles O7: one arm of the decoder per selector, and the last arm for every other. -/
theorem selectorsNameTheOperations : Obligations.SelectorsNameTheOperations :=
  ⟨fun _ => ⟨rfl, rfl, rfl, rfl, rfl, rfl, rfl, rfl, rfl, rfl, rfl, rfl, rfl, rfl, rfl, rfl, rfl⟩,
    fun _ a hop => decodeOp_of_not_mem hop a⟩

/-- Settles O10: closed lists of at most 25 positions, evaluated. -/
theorem namedLayoutsAndCoverage : Obligations.NamedLayoutsAndCoverage := by
  unfold Obligations.NamedLayoutsAndCoverage
  decide

/-- Settles O27: the data rows are the symbols of the 16 groups, which LC_DEC inverts; the others are no symbol of the table. -/
theorem symbolRowsOfTheStandardTable : Obligations.SymbolRowsOfTheStandardTable := by
  intro s hs
  constructor
  · intro row hrow
    have hrow : row ∈ (List.range 16).map fun k => (decodeSymbol (lcEncEntry lcTableStd k), k) := hrow
    obtain ⟨k, hk, rfl⟩ := List.mem_map.mp hrow
    have hentry : lcDecEntry s.lcTable (lcEncEntry lcTableStd k) = some k := by
      rw [hs]
      exact lcDecEntry_eq_some_iff.mpr ⟨List.mem_range.mp hk, rfl⟩
    rw [exec_decodeSymbol, State.lookUp_of_some hentry]
    rfl
  · intro i hi
    have hi : i ∈ stdNonDataSymbols.map decodeSymbol := hi
    obtain ⟨w, hw, rfl⟩ := List.mem_map.mp hi
    have hentry : lcDecEntry s.lcTable w = none := by
      rw [hs]
      exact lcDecEntry_std_eq_none w hw
    rw [exec_decodeSymbol, State.lookUp_of_none hentry]
    rfl

end Sys2Proof.Proofs
end

section
/-! SUPPORT. The bit codec (40_bitcodec.md): the bytes of a text as the groups of its bit string, and the bytes BC.FROMBIN keeps. -/

namespace Sys2Proof.Machine

/-- The word of a string of its own width has the number that the string writes (40_bitcodec.md R93). -/
theorem toNat_ofBits {w : Nat} {s : Bits} (h : s.length = w) : (ofBits w s).toNat = uint s := by
  rw [← uint_toBits, toBits_ofBits s h]

/-! ## BC.TOBIN -/

theorem exec_bcTobin (t : List Byte) (s : State) : exec (.bcTobin t) s = .next (s.returns (.bits (toBinary t))) := by
  rfl

theorem toBinary_eq_flatten (t : List Byte) : toBinary t = (t.map toBits).flatten := rfl

theorem toBinary_append (t u : List Byte) : toBinary (t ++ u) = toBinary t ++ toBinary u := List.flatMap_append

theorem length_of_mem_map_toBits {w : Nat} {t : List (BitVec w)} {g : Bits} (h : g ∈ t.map toBits) : g.length = w := by
  obtain ⟨v, _, rfl⟩ := List.mem_map.mp h
  exact toBits_length v

@[simp] theorem toBinary_length (t : List Byte) : (toBinary t).length = 8 * t.length := by
  rw [toBinary_eq_flatten, flatten_length _ fun _ => length_of_mem_map_toBits, List.length_map]

/-- The groups of eight bits are the bytes of the text in order, whatever the bytes are. -/
theorem groups_toBinary (t : List Byte) : groups 8 (toBinary t) = t.map toBits :=
  groups_flatten (by decide) _ fun _ => length_of_mem_map_toBits

theorem slice_toBinary {t : List Byte} {j : Nat} (h : j < t.length) :
    slice (toBinary t) (8 * j) (8 * j + 8) = toBits t[j] := by
  have hj : j < (groups 8 (toBinary t)).length := by simpa [groups_toBinary] using h
  rw [← groups_getElem 8 _ j hj]
  simp [groups_toBinary]

/-- Padding by whole bytes is the string of as many zero bytes. -/
theorem toBinary_replicate_zero (k : Nat) : toBinary (List.replicate k 0#8) = zeros (8 * k) := by
  induction k with
  | zero => rfl
  | succ k ih =>
    have hbyte : toBinary [0#8] = zeros 8 := by decide
    rw [List.replicate_succ', toBinary_append, ih, hbyte, zeros, zeros, List.replicate_append_replicate, Nat.mul_succ, zeros]

/-! ## BC.FROMBIN -/

theorem exec_bcFrombin (b : Bits) (s : State) :
    exec (.bcFrombin b) s = .next (s.answer ((fromBinary b).map .text)) := by
  rfl

theorem fromBinary_of_length_mod_ne {b : Bits} (h : b.length % 8 ≠ 0) :
    fromBinary b = .error ⟨.invariantViolation, .bc⟩ := if_pos h

theorem fromBinary_of_length_mod_eq {b : Bits} (h : b.length % 8 = 0) :
    fromBinary b = .ok (((groups 8 b).map (ofBits 8)).filter (· ≠ 0#8)) := if_neg (not_not.mpr h)

/-- The zero byte is the one byte of number 0, so dropping it is dropping that number. -/
theorem map_toNat_filter_ne_zero (t : List Byte) :
    (t.filter (· ≠ 0#8)).map BitVec.toNat = (t.map BitVec.toNat).filter (· ≠ 0) := by
  have hzero : ∀ v : Byte, decide (v ≠ 0#8) = decide (v.toNat ≠ 0) := fun v => by simp [BitVec.toNat_eq]
  rw [List.filter_map]
  exact congrArg _ (List.filter_congr fun v _ => hzero v)

/-- The bytes of the groups have the numbers that the groups write (40_bitcodec.md R91). -/
theorem map_toNat_map_ofBits_groups (w : Nat) (b : Bits) :
    ((groups w b).map (ofBits w)).map BitVec.toNat = (groups w b).map uint := by
  rw [List.map_map]
  exact List.map_congr_left fun g hg => toNat_ofBits (length_of_mem_groups hg)

/-- BC.FROMBIN reads the bytes that BC.TOBIN wrote and keeps the non-zero ones (40_bitcodec.md R92). -/
theorem fromBinary_toBinary (t : List Byte) : fromBinary (toBinary t) = .ok (t.filter (· ≠ 0#8)) := by
  have hbytes : (groups 8 (toBinary t)).map (ofBits 8) = t := by
    simp [groups_toBinary, Function.comp_def]
  rw [fromBinary_of_length_mod_eq (by simp), hbytes]

end Sys2Proof.Machine
end

section
/-! SUPPORT. The obligations about the bit codec (40_bitcodec.md). -/

namespace Sys2Proof.Proofs

open Sys2Proof.Machine

/-- Settles O18: the slices of the output are the bytes of the text as bit strings. -/
theorem toBinaryWritesEachByteMsbFirst : Obligations.ToBinaryWritesEachByteMsbFirst := by
  intro t s
  refine ⟨toBinary t, exec_bcTobin t s, toBinary_length t, fun j h => ?_⟩
  rw [slice_toBinary h, uint_toBits]

/-- Settles O19: the two cases of the length, each with the value BC.FROMBIN answers in it. -/
theorem fromBinaryDropsZeroGroups : Obligations.FromBinaryDropsZeroGroups := by
  intro b s
  refine ⟨fun h => ?_, fun h => ⟨((groups 8 b).map (ofBits 8)).filter (· ≠ 0#8), ?_, ?_⟩⟩
  · rw [exec_bcFrombin, fromBinary_of_length_mod_ne h]
    rfl
  · rw [exec_bcFrombin, fromBinary_of_length_mod_eq h]
    rfl
  · rw [map_toNat_filter_ne_zero, map_toNat_map_ofBits_groups, groups, List.map_map]
    rfl

/-- Settles O20: padding by whole bytes is a text of zero bytes, so one round trip gives all three parts. -/
theorem bitCodecRoundTripDropsZeroBytes : Obligations.BitCodecRoundTripDropsZeroBytes := by
  refine fun t => ⟨fromBinary_toBinary t, ?_, fun k => ?_⟩
  · rw [fromBinary_toBinary, Except.ok.injEq, List.filter_eq_self]
    exact ⟨fun hall hmem => by simpa using hall _ hmem, fun hnot v hv => decide_eq_true fun hzero => hnot (hzero ▸ hv)⟩
  · have hpad : (List.replicate k 0#8).filter (· ≠ 0#8) = [] := by simp
    rw [← toBinary_replicate_zero, ← toBinary_append, fromBinary_toBinary, fromBinary_toBinary, List.filter_append, hpad,
      List.nil_append]

end Sys2Proof.Proofs
end

section
/-! SUPPORT. The padder (41_padder.md): PAD.MIN stops at the first byte count whose frame is cut into whole chunks, and that count in
closed form. -/

namespace Sys2Proof.Machine

/-! ## The loop of PAD.MIN -/

/-- A text of `k` bytes makes a frame of `10 * (k + 1)` bits (41_padder.md R102). -/
theorem frameLength_of_bytes (k : Nat) : 8 * k / 4 * 5 + 10 = 10 * (k + 1) := by omega

/-- One turn of the loop at the candidate of `k` bytes (41_padder.md R100). -/
theorem padSearch_succ (m fuel k : Nat) :
    padSearch m (fuel + 1) (8 * k) = if m ∣ 10 * (k + 1) then 8 * k else padSearch m fuel (8 * (k + 1)) := by
  rw [padSearch, frameLength_of_bytes, Nat.mul_succ 8]
  simp only [Nat.dvd_iff_mod_eq_zero]

/-- Of the byte counts from `k₀` on, `i - 1` is the first whose frame, of `10 * i` bits, is cut into whole chunks of `m` bits
(41_padder.md R100, R102). -/
def IsFirstFit (m k₀ i : Nat) : Prop := IsLeast {i | k₀ < i ∧ m ∣ 10 * i} i

/-- Where the first candidate does not fit, the search from the second finds the same. -/
theorem IsFirstFit.succ {m k₀ i : Nat} (h : IsFirstFit m k₀ i) (hfit : ¬ m ∣ 10 * (k₀ + 1)) : IsFirstFit m (k₀ + 1) i := by
  obtain ⟨⟨hlt, hdvd⟩, hleast⟩ := h
  have hne : i ≠ k₀ + 1 := fun heq => hfit (heq ▸ hdvd)
  exact ⟨⟨by omega, hdvd⟩, fun j ⟨hj, hjdvd⟩ => hleast ⟨by omega, hjdvd⟩⟩

/-- With fuel for every turn, the loop stops at the first candidate that fits (41_padder.md R100, R104). -/
theorem padSearch_of_isFirstFit {m k₀ i fuel : Nat} (h : IsFirstFit m k₀ i) (hfuel : i ≤ k₀ + 1 + fuel) :
    padSearch m fuel (8 * k₀) = 8 * (i - 1) := by
  have hlt : k₀ < i := h.1.1
  induction fuel generalizing k₀ with
  | zero =>
    have hi : i = k₀ + 1 := by omega
    simp [padSearch, hi]
  | succ fuel ih =>
    rw [padSearch_succ]
    by_cases hfit : m ∣ 10 * (k₀ + 1)
    · have hi : i ≤ k₀ + 1 := h.2 ⟨k₀.lt_succ_self, hfit⟩
      rw [if_pos hfit]
      omega
    · have hnext := h.succ hfit
      rw [if_neg hfit]
      exact ih hnext (by omega) hnext.1.1

/-! ## The closed form -/

section Period

variable {m q : Nat}

theorem period_pos (hm : 0 < m) (hq : q = m / Nat.gcd 10 m) : 0 < q :=
  hq ▸ Nat.div_pos (Nat.gcd_le_right 10 hm) (Nat.gcd_pos_of_pos_right 10 hm)

/-- The period is within the figure that the source gives (41_padder.md R102). -/
theorem period_le_div_gcd_five (hm : 0 < m) (hq : q = m / Nat.gcd 10 m) : q ≤ m / Nat.gcd 5 m := by
  have hdvd : Nat.gcd 5 m ∣ Nat.gcd 10 m := Nat.gcd_dvd_gcd_of_dvd_left m (by decide)
  have hle : Nat.gcd 5 m ≤ Nat.gcd 10 m := Nat.le_of_dvd (Nat.gcd_pos_of_pos_right 10 hm) hdvd
  exact hq ▸ Nat.div_le_div_left hle (Nat.gcd_pos_of_pos_right 5 hm)

/-- The frames that fit recur with the period `q` (41_padder.md R102). -/
theorem dvd_ten_mul_iff (hm : 0 < m) (hq : q = m / Nat.gcd 10 m) (i : Nat) : m ∣ 10 * i ↔ q ∣ i := by
  rw [hq, Nat.div_dvd_iff_dvd_mul (Nat.gcd_dvd_right 10 m) (Nat.gcd_pos_of_pos_right 10 hm), Nat.gcd_comm,
    Nat.dvd_gcd_mul_iff_dvd_mul]

/-- The first fit is the least multiple of the period above `k₀` (41_padder.md R102). -/
theorem isFirstFit_mul_ceilDiv (hm : 0 < m) (hq : q = m / Nat.gcd 10 m) (k₀ : Nat) :
    IsFirstFit m k₀ (q * ((k₀ + 1) ⌈/⌉ q)) := by
  have hpos := period_pos hm hq
  have hgt : k₀ < q * ((k₀ + 1) ⌈/⌉ q) := (ceilDiv_le_iff_le_mul hpos).mp le_rfl
  refine ⟨⟨hgt, (dvd_ten_mul_iff hm hq _).mpr (Nat.dvd_mul_right q _)⟩, fun j ⟨hj, hdvd⟩ => ?_⟩
  obtain ⟨c, rfl⟩ := (dvd_ten_mul_iff hm hq j).mp hdvd
  exact Nat.mul_le_mul_left q ((ceilDiv_le_iff_le_mul hpos).mpr hj)

/-- A fit is met within one period (41_padder.md R102). -/
theorem IsFirstFit.le_add_period {k₀ i : Nat} (hm : 0 < m) (hq : q = m / Nat.gcd 10 m) (h : IsFirstFit m k₀ i) :
    i ≤ k₀ + q := by
  have hgt : k₀ < q * (k₀ / q + 1) := Nat.lt_mul_div_succ k₀ (period_pos hm hq)
  calc i
      _ ≤ q * (k₀ / q + 1) := h.2 ⟨hgt, (dvd_ten_mul_iff hm hq _).mpr (Nat.dvd_mul_right q _)⟩
      _ = q * (k₀ / q) + q := Nat.mul_succ q _
      _ ≤ k₀ + q := Nat.add_le_add_right (Nat.mul_div_le k₀ q) q

/-- The fuel `m` of PAD.MIN lasts for every turn of its loop (41_padder.md R102, log 12). -/
theorem minPadBits_of_isFirstFit {len i : Nat} (hm : 0 < m) (h : IsFirstFit m ((len + 7) / 8) i) :
    minPadBits len m = 8 * (i - 1) - len := by
  have hperiod : m / Nat.gcd 10 m ≤ m := Nat.div_le_self m _
  have hle := h.le_add_period hm rfl
  rw [minPadBits, padSearch_of_isFirstFit h (by omega)]

end Period

/-! ## The instructions -/

theorem exec_padMin_of_pos {m : Nat} (hm : 0 < m) (len : Nat) (s : State) :
    exec (.padMin len m) s = .next (s.returns (.nat (minPadBits len m))) :=
  if_neg hm.ne'

theorem exec_padApply (b : Bits) (k : Nat) (s : State) : exec (.padApply b k) s = .next (s.returns (.bits (padFront b k))) := by
  rfl

end Sys2Proof.Machine
end

section
/-! SUPPORT. The obligations about the padder (41_padder.md). -/

namespace Sys2Proof.Proofs

open Sys2Proof.Machine

/-- Settles O21: a smaller padding that meets both conditions is a fit before the first. -/
theorem padMinIsTheSmallestPadding : Obligations.PadMinIsTheSmallestPadding := by
  intro len m s hm
  obtain ⟨i, hfirst⟩ : ∃ i, IsFirstFit m ((len + 7) / 8) i := ⟨_, isFirstFit_mul_ceilDiv hm rfl _⟩
  have hpad := minPadBits_of_isFirstFit hm hfirst
  obtain ⟨⟨hlt, hdvd⟩, hleast⟩ := hfirst
  have hend : len + minPadBits len m = 8 * (i - 1) := by omega
  refine ⟨minPadBits len m, exec_padMin_of_pos hm len s, by omega, ?_, fun k hk ⟨hgrid, hfit⟩ => ?_⟩
  · rw [hend, frameLength_of_bytes, Nat.sub_add_cancel (by omega)]
    exact Nat.mod_eq_zero_of_dvd hdvd
  · obtain ⟨j, hj⟩ := Nat.dvd_of_mod_eq_zero hgrid
    rw [hj, frameLength_of_bytes] at hfit
    have hle : i ≤ j + 1 := hleast ⟨by omega, Nat.dvd_of_mod_eq_zero hfit⟩
    omega

/-- Settles O22: the first fit is the least multiple of `q` above the starting byte count, at most one period away. -/
theorem padMinClosedForm : Obligations.PadMinClosedForm := by
  intro len m q hm hq
  have hfirst := isFirstFit_mul_ceilDiv hm hq ((len + 7) / 8)
  rw [Nat.ceilDiv_eq_add_pred_div, Nat.add_sub_assoc (period_pos hm hq)] at hfirst
  have hpad := minPadBits_of_isFirstFit hm hfirst
  have hle := hfirst.le_add_period hm hq
  have hlt := hfirst.1.1
  refine ⟨hpad, by omega, period_le_div_gcd_five hm hq, fun fuel hfuel => ?_⟩
  rw [padSearch_of_isFirstFit hfirst (by omega)]
  omega

/-- Settles O23: the result is the zeros and then the string, as PAD.APPLY writes it. -/
theorem padApplyPrependsZeros : Obligations.PadApplyPrependsZeros :=
  exec_padApply

end Sys2Proof.Proofs
end

section
/-! SUPPORT. The line coder (42_linecoder.md): LC.ENC and LC.DEC on a string written piece by piece, from a list of group indices. -/

namespace Sys2Proof.Machine

/-! ## Strings joined from pieces of one width -/

section Pieces

variable {α : Type} {w : Nat} {f : α → Bits}

/-- Grouping undoes joining when every piece has the width of the grouping (30_encoding.md R69). -/
theorem groups_flatMap (hw : 0 < w) (hf : ∀ a, (f a).length = w) (l : List α) : groups w (l.flatMap f) = l.map f := by
  rw [List.flatMap_def]
  exact groups_flatten hw _ fun g hg => by
    obtain ⟨a, -, rfl⟩ := List.mem_map.mp hg
    exact hf a

theorem length_flatMap_of_width (hf : ∀ a, (f a).length = w) (l : List α) : (l.flatMap f).length = w * l.length := by
  simp [hf, Nat.mul_comm]

theorem slice_flatMap (hw : 0 < w) (hf : ∀ a, (f a).length = w) (l : List α) {j : Nat} (hj : j < l.length) :
    slice (l.flatMap f) (w * j) (w * j + w) = f l[j] := by
  have hgroups := groups_flatMap hw hf l
  have hj' : j < (groups w (l.flatMap f)).length := by simpa [hgroups] using hj
  rw [← groups_getElem w _ j hj']
  simp [hgroups]

/-- A piece stands at its offset (30_encoding.md R69). -/
theorem mem_groups {g s : Bits} : g ∈ groups w s ↔ ∃ j < s.length / w, slice s (w * j) (w * j + w) = g := by
  simp [groups]

/-- A string of whole pieces is joined from what its pieces are the images of. -/
theorem exists_eq_flatMap (hw : 0 < w) {s : Bits} (hs : s.length % w = 0) (h : ∀ g ∈ groups w s, ∃ a, f a = g) :
    ∃ l : List α, s = l.flatMap f := by
  have hrange : groups w s ∈ Set.range (List.map f) := by
    rw [Set.range_list_map]
    exact h
  obtain ⟨l, hl⟩ := hrange
  exact ⟨l, by rw [List.flatMap_def, hl, flatten_groups hw s hs]⟩

end Pieces

/-! ## Groups and symbols by index -/

/-- The 4-bit group of index `i` (42_linecoder.md R111). -/
def groupBits (i : Fin 16) : Bits := bitsN 4 i

/-- The symbol of the group of index `i`, first bit first (10_state.md R26). -/
def symbolBits (t : LcTable) (i : Fin 16) : Bits := toBits t.sym[i]

@[simp] theorem groupBits_length (i : Fin 16) : (groupBits i).length = 4 := bitsN_length 4 i

@[simp] theorem symbolBits_length (t : LcTable) (i : Fin 16) : (symbolBits t i).length = 5 := toBits_length _

@[simp] theorem uint_groupBits (i : Fin 16) : uint (groupBits i) = i := by
  rw [groupBits, uint_bitsN]
  exact Nat.mod_eq_of_lt i.isLt

theorem toBits_lcEncEntry (t : LcTable) (i : Fin 16) : toBits (lcEncEntry t i) = symbolBits t i := by
  rw [lcEncEntry, dif_pos i.isLt, symbolBits, Fin.getElem_fin]

/-- WF_LC (a) (00_scope.md R9). -/
theorem symbolBits_inj {t : LcTable} {i j : Fin 16} (h : symbolBits t i = symbolBits t j) : i = j :=
  t.wf.1 i j (toBits_inj h)

/-- WF_LC (b) (00_scope.md R9). -/
theorem symbolBits_ne_delim (t : LcTable) (i : Fin 16) : symbolBits t i ≠ delim := by
  have hdelim : toBits delimSym = delim := by decide
  exact fun h => t.wf.2 i (toBits_inj (h.trans hdelim.symm))

/-- Every group has an index, so no look-up of LC.ENC can miss (42_linecoder.md R110). -/
theorem exists_groupBits_eq {g : Bits} (hg : g.length = 4) : ∃ i, groupBits i = g := by
  have hlt : uint g < 2 ^ 4 := hg ▸ uint_lt g
  exact ⟨⟨uint g, hlt⟩, by rw [groupBits, ← hg, bitsN_uint]⟩

/-- A string of whole groups is written by the list of their indices. -/
theorem exists_eq_flatMap_groupBits {b : Bits} (h : b.length % 4 = 0) : ∃ l : List (Fin 16), b = l.flatMap groupBits :=
  exists_eq_flatMap (by decide) h fun _ hg => exists_groupBits_eq (length_of_mem_groups hg)

/-- The look-up of a symbol's bits in LC_DEC (10_state.md R26). -/
theorem lcDecEntry_symbolBits (t : LcTable) (i : Fin 16) : lcDecEntry t (ofBits 5 (symbolBits t i)) = some i.val := by
  rw [← toBits_lcEncEntry, ofBits_toBits]
  exact lcDecEntry_eq_some_iff.mpr ⟨i.isLt, rfl⟩

/-- An entry of LC_DEC with `valid = 0` is a piece that is no data symbol (10_state.md R26). -/
theorem lcDecEntry_ofBits_eq_none {t : LcTable} {p : Bits} (hp : p.length = 5) (h : ∀ i, symbolBits t i ≠ p) :
    lcDecEntry t (ofBits 5 p) = none := by
  rw [Option.eq_none_iff_forall_ne_some]
  intro k hk
  obtain ⟨hlt, hentry⟩ := lcDecEntry_eq_some_iff.mp hk
  apply h ⟨k, hlt⟩
  rw [← toBits_lcEncEntry, hentry, toBits_ofBits p hp]

/-! ## LC.ENC -/

theorem exec_lcEnc (b : Bits) (s : State) : exec (.lcEnc b) s = .next (s.answer ((lineEncode s.lcTable b).map .bits)) := by
  rfl

theorem lineEncode_of_length_mod_ne (t : LcTable) {b : Bits} (h : b.length % 4 ≠ 0) :
    lineEncode t b = .error ⟨.invariantViolation, .lc⟩ := if_pos h

/-- LC.ENC writes the symbol of every group, in order (42_linecoder.md R110). -/
theorem lineEncode_flatMap_groupBits (t : LcTable) (l : List (Fin 16)) :
    lineEncode t (l.flatMap groupBits) = .ok (l.flatMap (symbolBits t)) := by
  have hlength : (l.flatMap groupBits).length % 4 = 0 := by
    rw [length_flatMap_of_width groupBits_length, Nat.mul_mod_right]
  rw [lineEncode, if_neg (not_not.mpr hlength), groups_flatMap (by decide) groupBits_length, List.flatMap_map]
  simp only [uint_groupBits, toBits_lcEncEntry]

/-! ## LC.DEC -/

theorem exec_lcDec (b : Bits) (s : State) : exec (.lcDec b) s = .next (s.answer ((lineDecode s.lcTable b).map .bits)) := by
  rfl

theorem lineDecode_of_length_mod_ne (t : LcTable) {b : Bits} (h : b.length % 5 ≠ 0) :
    lineDecode t b = .error ⟨.invariantViolation, .lc⟩ := if_pos h

theorem lineDecode_of_length_mod_eq (t : LcTable) {b : Bits} (h : b.length % 5 = 0) :
    lineDecode t b = decodePieces t (groups 5 b) := if_neg (not_not.mpr h)

theorem decodePieces_cons_of_none {t : LcTable} {p : Bits} (ps : List Bits) (h : lcDecEntry t (ofBits 5 p) = none) :
    decodePieces t (p :: ps) = .error ⟨.invalidCodeword, .lc⟩ := by
  simp [decodePieces, h]

theorem decodePieces_cons_of_error {t : LcTable} (p : Bits) {ps : List Bits}
    (h : decodePieces t ps = .error ⟨.invalidCodeword, .lc⟩) :
    decodePieces t (p :: ps) = .error ⟨.invalidCodeword, .lc⟩ := by
  cases hp : lcDecEntry t (ofBits 5 p) with
  | none => exact decodePieces_cons_of_none ps hp
  | some k => simp [decodePieces, hp, h]

/-- One piece without an entry is enough for the fault, wherever it stands (42_linecoder.md R112). -/
theorem decodePieces_of_mem_of_none {t : LcTable} {ps : List Bits} {p : Bits} (hmem : p ∈ ps)
    (hp : lcDecEntry t (ofBits 5 p) = none) : decodePieces t ps = .error ⟨.invalidCodeword, .lc⟩ := by
  induction hmem with
  | head ps => exact decodePieces_cons_of_none ps hp
  | tail q _ ih => exact decodePieces_cons_of_error q ih

/-- The look-ups of LC.DEC on data symbols give their groups, in order (42_linecoder.md R112). -/
theorem decodePieces_map_symbolBits (t : LcTable) (l : List (Fin 16)) :
    decodePieces t (l.map (symbolBits t)) = .ok (l.flatMap groupBits) := by
  induction l with
  | nil => rfl
  | cons i l ih => simp [decodePieces, lcDecEntry_symbolBits, ih, groupBits]

theorem lineDecode_flatMap_symbolBits (t : LcTable) (l : List (Fin 16)) :
    lineDecode t (l.flatMap (symbolBits t)) = .ok (l.flatMap groupBits) := by
  have hlength : (l.flatMap (symbolBits t)).length % 5 = 0 := by
    rw [length_flatMap_of_width (symbolBits_length t), Nat.mul_mod_right]
  rw [lineDecode_of_length_mod_eq t hlength, groups_flatMap (by decide) (symbolBits_length t), decodePieces_map_symbolBits]

end Sys2Proof.Machine
end

section
/-! SUPPORT. The obligations about the line coder (42_linecoder.md). -/

namespace Sys2Proof.Proofs

open Sys2Proof.Machine

/-- Settles O24: a string of whole groups is written by their indices, and the output by the symbols of the same indices. -/
theorem lineEncodeMapsEachGroup : Obligations.LineEncodeMapsEachGroup := by
  intro b s
  refine ⟨fun h => ?_, fun h => ?_⟩
  · rw [exec_lcEnc, lineEncode_of_length_mod_ne _ h]
    rfl
  · obtain ⟨l, rfl⟩ := exists_eq_flatMap_groupBits h
    have hin := length_flatMap_of_width groupBits_length l
    have hout := length_flatMap_of_width (symbolBits_length s.lcTable) l
    refine ⟨l.flatMap (symbolBits s.lcTable), ?_, by omega, fun j hj => ?_⟩
    · rw [exec_lcEnc, lineEncode_flatMap_groupBits]
      rfl
    · have hj : j < l.length := by omega
      have hindex : uint (slice (l.flatMap groupBits) (4 * j) (4 * j + 4)) = l[j] := by
        rw [slice_flatMap (by decide) groupBits_length l hj, uint_groupBits]
      refine ⟨hindex ▸ l[j].isLt, ?_⟩
      rw [slice_flatMap (by decide) (symbolBits_length _) l hj]
      simp only [hindex]
      rfl

/-- Settles O25: one piece without an entry faults; else the pieces are the symbols of a list of indices, and WF_LC (a) makes the
index of each piece the only one. -/
theorem lineDecodeInvertsEachSymbol : Obligations.LineDecodeInvertsEachSymbol := by
  intro b s
  refine ⟨fun h => ?_, fun h ⟨j, hj, hnone⟩ => ?_, fun h hall => ?_⟩
  · rw [exec_lcDec, lineDecode_of_length_mod_ne _ h]
    rfl
  · have hmem : slice b (5 * j) (5 * j + 5) ∈ groups 5 b := mem_groups.mpr ⟨j, hj, rfl⟩
    have hentry := lcDecEntry_ofBits_eq_none (length_of_mem_groups hmem) hnone
    rw [exec_lcDec, lineDecode_of_length_mod_eq _ h, decodePieces_of_mem_of_none hmem hentry]
    rfl
  · have hsymbols : ∀ p ∈ groups 5 b, ∃ i, symbolBits s.lcTable i = p := by
      intro p hp
      obtain ⟨j, hj, rfl⟩ := mem_groups.mp hp
      exact hall j hj
    obtain ⟨l, rfl⟩ := exists_eq_flatMap (by decide) h hsymbols
    have hin := length_flatMap_of_width (symbolBits_length s.lcTable) l
    have hout := length_flatMap_of_width groupBits_length l
    refine ⟨l.flatMap groupBits, ?_, by omega, fun j hj i hi => ?_⟩
    · rw [exec_lcDec, lineDecode_flatMap_symbolBits]
      rfl
    · have hj : j < l.length := by omega
      rw [slice_flatMap (by decide) (symbolBits_length _) l hj] at hi
      rw [slice_flatMap (by decide) groupBits_length l hj, ← symbolBits_inj hi, groupBits]

/-- Settles O26: groups and symbols are written by one list of indices, and no symbol of the table is the delimiter. -/
theorem lineCodeIsABijection : Obligations.LineCodeIsABijection := by
  intro t b h
  obtain ⟨l, rfl⟩ := exists_eq_flatMap_groupBits h
  have hencode := lineEncode_flatMap_groupBits t l
  have hdecode := lineDecode_flatMap_symbolBits t l
  refine ⟨l.flatMap (symbolBits t), hencode, hdecode, fun b' hb' => ?_, fun j hj => ?_⟩
  · cases hdecode.symm.trans hb'
    exact hencode
  · have hlength := length_flatMap_of_width (symbolBits_length t) l
    rw [slice_flatMap (by decide) (symbolBits_length t) l (by omega)]
    exact symbolBits_ne_delim t _

end Sys2Proof.Proofs
end

section
/-! SUPPORT. The framer (43_framer.md): the strings FR.DEFRAME takes are exactly those FR.FRAME gives. -/

namespace Sys2Proof.Machine

/-! ## FR.FRAME -/

theorem exec_frFrame (b : Bits) (s : State) : exec (.frFrame b) s = .next (s.returns (.bits (frame b))) := by
  rfl

@[simp] theorem frame_length (p : Bits) : (frame p).length = p.length + 10 := by
  simp [frame, delim]

@[simp] theorem first_frame (p : Bits) : first (frame p) 5 = delim := by
  rw [first_eq_take, frame, List.append_assoc]
  exact List.take_left' rfl

@[simp] theorem last_frame (p : Bits) : last (frame p) 5 = delim := by
  rw [last_eq_drop, frame_length]
  have hlength : (delim ++ p).length = p.length + 10 - 5 := by
    rw [List.length_append, Nat.add_comm]
    rfl
  exact List.drop_left' hlength

@[simp] theorem slice_frame (p : Bits) : slice (frame p) 5 (p.length + 5) = p := by
  rw [slice, Nat.add_sub_cancel, frame, List.append_assoc]
  exact List.take_left

/-! ## FR.DEFRAME -/

theorem exec_frDeframe (b : Bits) (s : State) : exec (.frDeframe b) s = .next (s.answer ((deframe b).map .bits)) := by
  rfl

/-- Both delimiters and what stands between them are the whole string; ten bits keep them apart (43_framer.md R121). -/
theorem eq_frame_slice {b : Bits} (hlength : 10 ≤ b.length) (hfirst : first b 5 = delim) (hlast : last b 5 = delim) :
    b = frame (slice b 5 (b.length - 5)) := by
  have hdrop : (b.drop 5).drop (b.length - 5 - 5) = b.drop (b.length - 5) := by
    rw [List.drop_drop, Nat.add_sub_cancel' (by omega)]
  calc b
      _ = b.take 5 ++ ((b.drop 5).take (b.length - 5 - 5) ++ (b.drop 5).drop (b.length - 5 - 5)) := by
        rw [List.take_append_drop, List.take_append_drop]
      _ = first b 5 ++ slice b 5 (b.length - 5) ++ last b 5 := by
        rw [hdrop, ← first_eq_take, ← last_eq_drop, List.append_assoc, slice]
      _ = frame (slice b 5 (b.length - 5)) := by
        rw [hfirst, hlast, frame]

/-- FR.DEFRAME undoes FR.FRAME (43_framer.md R122). -/
theorem deframe_frame (p : Bits) : deframe (frame p) = .ok p := by
  simp [deframe]

/-- The three tests of FR.DEFRAME pass for what FR.FRAME gives and for nothing else (43_framer.md R121). -/
theorem deframe_eq_ok_iff {b p : Bits} : deframe b = .ok p ↔ b = frame p := by
  refine ⟨fun h => ?_, fun h => h ▸ deframe_frame p⟩
  unfold deframe at h
  split_ifs at h with hlength hfirst hlast
  cases h
  exact eq_frame_slice (Nat.le_of_not_lt hlength) (not_not.mp hfirst) (not_not.mp hlast)

theorem deframe_of_ne_frame {b : Bits} (h : ∀ p, b ≠ frame p) : deframe b = .error ⟨.framingDesync, .fr⟩ := by
  cases hd : deframe b with
  | ok p => exact absurd (deframe_eq_ok_iff.mp hd) (h p)
  | error f => rw [deframe_error hd]

end Sys2Proof.Machine
end

section
/-! SUPPORT. The obligations about the framer (43_framer.md). -/

namespace Sys2Proof.Proofs

open Sys2Proof.Machine

/-- Settles O29: the answer is `frame b`, which looks at no bit of `b`. -/
theorem framePutsDelimitersAround : Obligations.FramePutsDelimitersAround :=
  exec_frFrame

/-- Settles O30: a string is either a frame, which FR.DEFRAME undoes, or no frame, and then one of its three tests fails. -/
theorem deframeStripsOrDesyncs : Obligations.DeframeStripsOrDesyncs := by
  intro b s
  refine ⟨fun p hframe => ?_, fun hno => ?_⟩
  · have hok : deframe b = .ok p := deframe_eq_ok_iff.mpr hframe
    rw [exec_frDeframe, hok]
    rfl
  · have herror : deframe b = .error ⟨.framingDesync, .fr⟩ := deframe_of_ne_frame fun p hframe => hno ⟨p, hframe⟩
    rw [exec_frDeframe, herror]
    rfl

end Sys2Proof.Proofs
end

section
/-! SUPPORT. The Hamming code (44_hamming.md): the checks of a block and its syndrome as linear functions of its bits. -/

namespace Sys2Proof.Machine

/-! ## The instructions -/

theorem exec_eccRed_of_pos {m : Nat} (hm : 0 < m) (s : State) : exec (.eccRed m) s = .next (s.returns (.nat (redBits m))) :=
  if_neg hm.ne'

theorem exec_eccEnc_of_length {d : Bits} {s : State} (h : d.length = s.msgBits.val) :
    exec (.eccEnc d) s = .next (s.returns (.bits (eccEncode s.msgBits.val d))) :=
  if_neg (not_not.mpr h)

theorem exec_eccCor_of_length {b : Bits} {s : State} (h : b.length = blockBits s.msgBits.val) :
    exec (.eccCor b) s = .next (s.returns (.bits (eccCorrect s.msgBits.val b))) :=
  if_neg (not_not.mpr h)

theorem exec_eccExt_of_length {b : Bits} {s : State} (h : b.length = blockBits s.msgBits.val) :
    exec (.eccExt b) s = .next (s.returns (.bits (eccExtract s.msgBits.val b))) :=
  if_neg (not_not.mpr h)

/-! ## Powers of two by their bits -/

theorem and_two_pow_ne_zero_iff {i j : Nat} : i &&& 2 ^ j ≠ 0 ↔ i.testBit j = true := by
  rw [Nat.and_two_pow]
  cases i.testBit j <;> simp

theorem two_pow_xor_two_pow {a b : Nat} (h : a ≠ b) : 2 ^ a ^^^ 2 ^ b = 2 ^ a + 2 ^ b := by
  wlog hlt : a < b generalizing a b with hswap
  · rw [Nat.xor_comm, Nat.add_comm, hswap h.symm (lt_of_le_of_ne (not_lt.mp hlt) h.symm)]
  have hor := Nat.two_pow_add_eq_or_of_lt (Nat.pow_lt_pow_right Nat.one_lt_two hlt) 1
  rw [Nat.add_comm (2 ^ a), ← Nat.mul_one (2 ^ b), hor, Nat.mul_one]
  refine Nat.eq_of_testBit_eq fun k => ?_
  rw [Nat.testBit_xor, Nat.testBit_or, Nat.testBit_two_pow, Nat.testBit_two_pow]
  by_cases ha : a = k
  · have hb : b ≠ k := fun hb => h (ha.trans hb.symm)
    simp [ha, hb]
  · simp [ha]

/-- Two bits stand in the XOR of two different powers of two. -/
theorem isPow2_two_pow_xor_two_pow {a b : Nat} (h : a ≠ b) : isPow2 (2 ^ a ^^^ 2 ^ b) = false := by
  by_contra hpow
  obtain ⟨c, hc⟩ := (isPow2_iff _).mp (Bool.not_eq_false _ ▸ hpow)
  have hbit (k : Nat) : (decide (a = k) ^^ decide (b = k)) = decide (c = k) := by
    simpa only [Nat.testBit_xor, Nat.testBit_two_pow] using congrArg (Nat.testBit · k) hc
  have hca : c = a := by simpa [h.symm] using (hbit a).symm
  have hcb : c = b := by simpa [h] using (hbit b).symm
  exact h (hca.symm.trans hcb)

/-! ## The XOR of the bits at a list of positions -/

theorem xorOf_cons (x : Bool) (l : List Bool) : xorOf (x :: l) = (x ^^ xorOf l) := rfl

theorem bitAt_flipAt_eq_xor {b : Bits} {i k : Nat} (hi : 1 ≤ i) (hib : i ≤ b.length) (hk : 1 ≤ k) :
    bitAt (flipAt b i) k = (bitAt b k ^^ decide (k = i)) := by
  rw [bitAt_flipAt b hi hib hk]
  by_cases h : k = i
  · simp [h]
  · simp [h]

/-- A flip inverts the XOR over a list of positions when its position is in the list. -/
theorem xorOf_map_bitAt_flipAt {b : Bits} {i : Nat} (hi : 1 ≤ i) (hib : i ≤ b.length) {l : List Nat} (hl : l.Nodup)
    (hpos : ∀ k ∈ l, 1 ≤ k) :
    xorOf (l.map (bitAt (flipAt b i))) = (xorOf (l.map (bitAt b)) ^^ decide (i ∈ l)) := by
  induction l with
  | nil => rfl
  | cons k l ih =>
    obtain ⟨hk, hl⟩ := List.nodup_cons.mp hl
    obtain ⟨hk1, hpos⟩ := List.forall_mem_cons.mp hpos
    have htail := ih hl hpos
    rw [List.map_cons, List.map_cons, xorOf_cons, xorOf_cons, bitAt_flipAt_eq_xor hi hib hk1, htail]
    by_cases h : k = i
    · subst h
      simp [hk]
    · simp [h, Ne.symm h]

/-! ## The checks -/

/-- A check is the XOR over its coverage set with the parity position itself (44_hamming.md R133, R134). -/
theorem checkFails_eq_xorOf (b : Bits) (n p : Nat) : checkFails b n p = xorOf ((p :: cov p n).map (bitAt b)) := by
  rw [List.map_cons, xorOf_cons, checkFails, covParity, Bool.xor_comm]

theorem nodup_cons_cov (p n : Nat) : (p :: cov p n).Nodup :=
  List.nodup_cons.mpr ⟨fun h => (mem_cov.mp h).2.2 rfl, (positions_pairwise_lt n).nodup.filter _⟩

/-- A position takes part in the checks of its binary expansion (44_hamming.md R138). -/
theorem mem_cons_cov_iff {i j n : Nat} (hi : 1 ≤ i) (hin : i ≤ n) :
    i ∈ 2 ^ j :: cov (2 ^ j) n ↔ i.testBit j = true := by
  rw [List.mem_cons, mem_cov, and_two_pow_ne_zero_iff]
  by_cases h : i = 2 ^ j
  · simp [h]
  · simp [h, hi, hin]

/-- A flip at position `i` changes the checks of the binary expansion of `i` and no other (44_hamming.md R138). -/
theorem checkFails_flipAt {b : Bits} {n i : Nat} (hb : b.length = n) (hi : 1 ≤ i) (hin : i ≤ n) (j : Nat) :
    checkFails (flipAt b i) n (2 ^ j) = (checkFails b n (2 ^ j) ^^ i.testBit j) := by
  have hpos : ∀ k ∈ 2 ^ j :: cov (2 ^ j) n, 1 ≤ k :=
    List.forall_mem_cons.mpr ⟨Nat.one_le_two_pow, fun k hk => (mem_cov.mp hk).1.1⟩
  rw [checkFails_eq_xorOf, checkFails_eq_xorOf, xorOf_map_bitAt_flipAt hi (hb ▸ hin) (nodup_cons_cov _ _) hpos,
    Bool.decide_congr (mem_cons_cov_iff hi hin), Bool.decide_eq_true]

/-! ## The syndrome -/

theorem parityPositions_succ (r : Nat) : parityPositions (r + 1) = parityPositions r ++ [2 ^ r] := by
  rw [parityPositions, List.range_succ, List.map_append, List.map_singleton, parityPositions]

theorem checkFails_iff {b : Bits} {n p : Nat} : checkFails b n p = true ↔ covParity b n p ≠ bitAt b p := bne_iff_ne

theorem syndrome_succ (b : Bits) (n r : Nat) :
    syndrome b n (r + 1) = syndrome b n r + if checkFails b n (2 ^ r) then 2 ^ r else 0 := by
  rw [syndrome, parityPositions_succ, List.filter_append, List.sum_append, List.filter_singleton, syndrome]
  cases checkFails b n (2 ^ r) <;> rfl

theorem syndrome_eq_sum (b : Bits) (n r : Nat) :
    syndrome b n r = ∑ j ∈ Finset.range r, if covParity b n (2 ^ j) ≠ bitAt b (2 ^ j) then 2 ^ j else 0 := by
  induction r with
  | zero => rfl
  | succ r ih => simp only [syndrome_succ, ih, Finset.sum_range_succ, checkFails_iff]

/-- The bits of the syndrome are the checks (44_hamming.md R135). -/
theorem testBit_syndrome (b : Bits) (n r j : Nat) :
    (syndrome b n r).testBit j = (decide (j < r) && checkFails b n (2 ^ j)) := by
  have hsorted : ((List.range r).filter fun k => checkFails b n (2 ^ k)).SortedLT :=
    (List.pairwise_lt_range.filter _).sortedLT
  have hindices : (syndrome b n r).bitIndices = (List.range r).filter fun k => checkFails b n (2 ^ k) := by
    rw [syndrome, parityPositions, List.filter_map]
    exact Nat.bitIndices_sum_map_two_pow hsorted
  rw [Bool.eq_iff_iff, ← Nat.mem_bitIndices, hindices]
  simp

theorem syndrome_lt_two_pow (b : Bits) (n r : Nat) : syndrome b n r < 2 ^ r :=
  Nat.lt_pow_two_of_testBit _ fun j hj => by simp [testBit_syndrome, Nat.not_lt.mpr hj]

/-- Flipping a position adds it to the syndrome, bit by bit without carry (44_hamming.md R138, R139). -/
theorem syndrome_flipAt {b : Bits} {n r i : Nat} (hb : b.length = n) (hn : n < 2 ^ r) (hi : 1 ≤ i) (hin : i ≤ n) :
    syndrome (flipAt b i) n r = syndrome b n r ^^^ i := by
  refine Nat.eq_of_testBit_eq fun j => ?_
  rw [Nat.testBit_xor, testBit_syndrome, testBit_syndrome, checkFails_flipAt hb hi hin]
  by_cases hj : j < r
  · simp [hj]
  · have hlt : i < 2 ^ j := (hin.trans_lt hn).trans_le (Nat.pow_le_pow_right Nat.two_pos (not_lt.mp hj))
    simp [hj, Nat.testBit_lt_two_pow hlt]

theorem syndrome_eq_zero_of_validBlock {b : Bits} {n r : Nat} (h : validBlock b n r = true) : syndrome b n r = 0 := by
  have hnone : (parityPositions r).filter (checkFails b n) = [] :=
    List.filter_eq_nil_iff.mpr fun p hp => by simp [checkFails, validBlock_iff.mp h p hp]
  rw [syndrome, hnone, List.sum_nil]

/-! ## ECC.EXT -/

theorem eccExtract_length {m : Nat} (hm : 0 < m) (b : Bits) : (eccExtract m b).length = m := by
  rw [eccExtract, List.length_map, dataPositions_length hm]

theorem eccExtract_getD {m k : Nat} (hm : 0 < m) (b : Bits) (hk : k < m) :
    (eccExtract m b).getD k false = bitAt b ((dataPositions (blockBits m)).getD k 0) := by
  have hk : k < (dataPositions (blockBits m)).length := by rwa [dataPositions_length hm]
  simp [eccExtract, hk]

theorem eccExtract_eq_iff {m : Nat} {a b : Bits} :
    eccExtract m a = eccExtract m b ↔ ∀ i ∈ dataPositions (blockBits m), bitAt a i = bitAt b i :=
  List.map_inj_left

/-- An encoded chunk carries the data bits of the block assembled from that chunk, whatever its parity bits. -/
theorem eccExtract_eccEncode {m : Nat} (hm : 0 < m) {d : Bits} (hd : d.length = m) :
    eccExtract m (eccEncode m d) = d := by
  calc eccExtract m (eccEncode m d)
      _ = eccExtract m (assemble (blockBits m) [] d) := by
        refine eccExtract_eq_iff.mpr fun i hi => ?_
        obtain ⟨⟨h₁, h₂⟩, hpow⟩ := mem_dataPositions.mp hi
        rw [bitAt_eccEncode_of_mem_dataPositions d hi, bitAt_assemble [] d h₁ h₂, hpow, if_neg Bool.false_ne_true]
      _ = d := eccExtract_assemble hm [] hd

/-- The valid block of given data bits is the encoding of those bits (44_hamming.md R133). -/
theorem validBlock_iff_eq_eccEncode_eccExtract {m : Nat} (hm : 0 < m) {b : Bits} (hb : b.length = blockBits m) :
    validBlock b (blockBits m) (redBits m) = true ↔ b = eccEncode m (eccExtract m b) := by
  have hdata := eccExtract_eq_iff.mp (eccExtract_eccEncode hm (eccExtract_length hm b)).symm
  refine validBlock_iff_eq_eccEncode hm hb fun i hi => ?_
  rw [hdata i hi, bitAt_eccEncode_of_mem_dataPositions _ hi]

theorem validBlock_eccEncode {m : Nat} (hm : 0 < m) {d : Bits} (hd : d.length = m) :
    validBlock (eccEncode m d) (blockBits m) (redBits m) = true := by
  rw [validBlock_iff_eq_eccEncode_eccExtract hm (eccEncode_length m d), eccExtract_eccEncode hm hd]

theorem syndrome_eccEncode {m : Nat} (hm : 0 < m) {d : Bits} (hd : d.length = m) :
    syndrome (eccEncode m d) (blockBits m) (redBits m) = 0 :=
  syndrome_eq_zero_of_validBlock (validBlock_eccEncode hm hd)

/-! ## ECC.COR -/

theorem eccCorrect_of_syndrome_eq_zero {m : Nat} {b : Bits} (h : syndrome b (blockBits m) (redBits m) = 0) :
    eccCorrect m b = b := by
  simp [eccCorrect, h]

theorem eccCorrect_of_syndrome_eq {m i : Nat} {b : Bits} (h : syndrome b (blockBits m) (redBits m) = i) (hi : 1 ≤ i)
    (hin : i ≤ blockBits m) : eccCorrect m b = flipAt b i := by
  subst h
  exact if_pos ⟨hi, hin⟩

/-- ECC.COR inverts the bit at the position the syndrome names and no other (44_hamming.md R136). -/
theorem bitAt_eccCorrect {m k : Nat} {b : Bits} (hb : b.length = blockBits m) (hk : 1 ≤ k) (hkn : k ≤ blockBits m) :
    bitAt (eccCorrect m b) k =
      if k = syndrome b (blockBits m) (redBits m) then !bitAt b k else bitAt b k := by
  generalize hS : syndrome b (blockBits m) (redBits m) = S
  by_cases hin : 1 ≤ S ∧ S ≤ blockBits m
  · obtain ⟨h₁, h₂⟩ := hin
    rw [eccCorrect_of_syndrome_eq hS h₁ h₂, bitAt_flipAt b h₁ (hb ▸ h₂) hk]
    by_cases h : k = S
    · simp [h]
    · simp [h]
  · have hne : k ≠ S := fun h => hin (h ▸ ⟨hk, hkn⟩)
    rw [eccCorrect, hS, if_neg hin, if_neg hne]

/-! ## Blocks received with one and with two flipped bits -/

theorem flipAt_flipAt_self {b : Bits} {i : Nat} (hi : 1 ≤ i) (hib : i ≤ b.length) : flipAt (flipAt b i) i = b := by
  refine block_ext (by simp) rfl fun k hk _ => ?_
  rw [bitAt_flipAt_eq_xor hi (by simpa using hib) hk, bitAt_flipAt_eq_xor hi hib hk, Bool.xor_assoc, Bool.xor_self,
    Bool.xor_false]

section Received

variable {m i j : Nat} {d : Bits}

/-- The syndrome of one flipped bit is its position (44_hamming.md R138). -/
theorem syndrome_flipAt_eccEncode (hm : 0 < m) (hd : d.length = m) (hi : 1 ≤ i) (hin : i ≤ blockBits m) :
    syndrome (flipAt (eccEncode m d) i) (blockBits m) (redBits m) = i := by
  rw [syndrome_flipAt (eccEncode_length m d) (blockBits_lt_two_pow m) hi hin, syndrome_eccEncode hm hd, Nat.zero_xor]

theorem eccCorrect_flipAt_eccEncode (hm : 0 < m) (hd : d.length = m) (hi : 1 ≤ i) (hin : i ≤ blockBits m) :
    eccCorrect m (flipAt (eccEncode m d) i) = eccEncode m d := by
  rw [eccCorrect_of_syndrome_eq (syndrome_flipAt_eccEncode hm hd hi hin) hi hin,
    flipAt_flipAt_self hi ((eccEncode_length m d).symm ▸ hin)]

/-- The syndrome of two flipped bits is the XOR of their positions (44_hamming.md R139). -/
theorem syndrome_flipAt_flipAt_eccEncode (hm : 0 < m) (hd : d.length = m) (hi : 1 ≤ i) (hin : i ≤ blockBits m)
    (hj : 1 ≤ j) (hjn : j ≤ blockBits m) :
    syndrome (flipAt (flipAt (eccEncode m d) i) j) (blockBits m) (redBits m) = i ^^^ j := by
  rw [syndrome_flipAt (by simp) (blockBits_lt_two_pow m) hj hjn, syndrome_flipAt_eccEncode hm hd hi hin]

/-- After the correction of two flipped bits, the two and the position their XOR names are the wrong ones (44_hamming.md R139). -/
theorem bitAt_eccCorrect_two_flips_eq_iff (hm : 0 < m) (hd : d.length = m) (hi : 1 ≤ i) (hin : i ≤ blockBits m)
    (hj : 1 ≤ j) (hjn : j ≤ blockBits m) (hij : i ≠ j) {k : Nat} (hk : 1 ≤ k) (hkn : k ≤ blockBits m) :
    bitAt (eccCorrect m (flipAt (flipAt (eccEncode m d) i) j)) k = bitAt (eccEncode m d) k ↔
      k ≠ i ∧ k ≠ j ∧ k ≠ i ^^^ j := by
  have hSi : i ≠ i ^^^ j := fun h => absurd (xor_left_eq_self_iff.mp h.symm) (by omega)
  have hSj : j ≠ i ^^^ j := fun h => absurd (xor_right_eq_self_iff.mp h.symm) (by omega)
  rw [bitAt_eccCorrect (by simp) hk hkn, syndrome_flipAt_flipAt_eccEncode hm hd hi hin hj hjn,
    bitAt_flipAt_eq_xor hj (by simpa using hjn) hk, bitAt_flipAt_eq_xor hi (by simpa using hin) hk]
  by_cases h₁ : k = i
  · simp [h₁, hij, hSi]
  by_cases h₂ : k = j
  · simp [h₂, hij.symm, hSj]
  by_cases h₃ : k = i ^^^ j
  · rw [if_pos h₃]
    simp [h₁, h₂, ← h₃]
  · simp [h₁, h₂, h₃]

/-- The data of two flipped bits come out right when none of the three wrong positions holds data (44_hamming.md R139). -/
theorem eccExtract_eccCorrect_two_flips_eq_iff (hm : 0 < m) (hd : d.length = m) (hi : 1 ≤ i) (hin : i ≤ blockBits m)
    (hj : 1 ≤ j) (hjn : j ≤ blockBits m) (hij : i ≠ j) :
    eccExtract m (eccCorrect m (flipAt (flipAt (eccEncode m d) i) j)) = d ↔
      i ∉ dataPositions (blockBits m) ∧ j ∉ dataPositions (blockBits m) ∧ i ^^^ j ∉ dataPositions (blockBits m) := by
  calc eccExtract m (eccCorrect m (flipAt (flipAt (eccEncode m d) i) j)) = d
      _ ↔ ∀ k ∈ dataPositions (blockBits m),
          bitAt (eccCorrect m (flipAt (flipAt (eccEncode m d) i) j)) k = bitAt (eccEncode m d) k := by
        rw [← eccExtract_eq_iff, eccExtract_eccEncode hm hd]
      _ ↔ ∀ k ∈ dataPositions (blockBits m), k ≠ i ∧ k ≠ j ∧ k ≠ i ^^^ j := by
        refine forall₂_congr fun k hk => ?_
        obtain ⟨⟨h₁, h₂⟩, -⟩ := mem_dataPositions.mp hk
        exact bitAt_eccCorrect_two_flips_eq_iff hm hd hi hin hj hjn hij h₁ h₂
      _ ↔ i ∉ dataPositions (blockBits m) ∧ j ∉ dataPositions (blockBits m) ∧ i ^^^ j ∉ dataPositions (blockBits m) := by
        grind

end Received

/-- The two flipped bits must be parity bits; their XOR is then their sum and no power of two, so it holds data unless it stands
beyond the block (44_hamming.md R139). -/
theorem not_mem_dataPositions_pair_and_xor_iff {n i j : Nat} (hi : 1 ≤ i) (hin : i ≤ n) (hj : 1 ≤ j) (hjn : j ≤ n) (hij : i ≠ j) :
    (i ∉ dataPositions n ∧ j ∉ dataPositions n ∧ i ^^^ j ∉ dataPositions n) ↔
      isPow2 i = true ∧ isPow2 j = true ∧ n < i + j := by
  have hnot {k : Nat} (hk : 1 ≤ k) (hkn : k ≤ n) : k ∉ dataPositions n ↔ isPow2 k = true := by
    simp [mem_dataPositions, hk, hkn]
  rw [hnot hi hin, hnot hj hjn]
  refine and_congr_right fun hpi => and_congr_right fun hpj => ?_
  obtain ⟨a, rfl⟩ := (isPow2_iff i).mp hpi
  obtain ⟨b, rfl⟩ := (isPow2_iff j).mp hpj
  have hab : a ≠ b := fun h => hij (congrArg _ h)
  have hpow := isPow2_two_pow_xor_two_pow hab
  rw [two_pow_xor_two_pow hab] at hpow ⊢
  rw [mem_dataPositions, hpow, eq_self_iff_true, and_true]
  omega

end Sys2Proof.Machine
end

section
/-! SUPPORT. The obligations about the Hamming code (44_hamming.md). -/

namespace Sys2Proof.Proofs

open Sys2Proof.Machine

/-- Settles O31: the loop's answer is the least `r`, and neither 0 nor 1 is large enough for a chunk of at least one bit. -/
theorem redBitsIsTheSmallest : Obligations.RedBitsIsTheSmallest := by
  intro m s hm
  have hfits : m + redBits m + 1 ≤ 2 ^ redBits m := (redBits_isLeast m).1
  refine ⟨redBits m, exec_eccRed_of_pos hm s, hfits, fun k hk => two_pow_lt_of_lt_redBits hk, ?_⟩
  by_contra hlt
  obtain h | h : redBits m = 0 ∨ redBits m = 1 := by omega
  all_goals
    rw [h] at hfits
    omega

/-- Settles O33: the data come back by ECC.EXT, and the bit at a parity position is its XOR in the encoded chunk. -/
theorem eccEncodePlacesDataAndParity : Obligations.EccEncodePlacesDataAndParity := by
  intro d s hd
  have hm := s.msgBits.pos
  refine ⟨_, exec_eccEnc_of_length hd, eccEncode_length _ d, fun k hk => ?_, fun j hj => ?_⟩
  · rw [← eccExtract_getD hm _ hk, eccExtract_eccEncode hm hd]
  · exact bitAt_eccEncode_of_isPow2 d ((isPow2_iff _).mpr ⟨j, rfl⟩) Nat.one_le_two_pow
      ((two_pow_le_blockBits_iff hm).mpr hj)

/-- Settles O34: a check is one XOR in both forms, a valid block is the encoding of its own data bits, and ECC.EXT undoes ECC.ENC. -/
theorem validBlocksAreTheEncodedChunks : Obligations.ValidBlocksAreTheEncodedChunks := by
  intro m b hb
  refine ⟨?_, ?_, ⟨fun hvalid => ?_, ?_⟩, fun d d' hd hd' h => ?_⟩
  · rw [validBlock_iff]
    exact forall₂_congr fun p _ => eq_comm
  · simp only [← checkFails_eq_xorOf, validBlock, List.all_eq_true, Bool.not_eq_true']
  · exact ⟨_, eccExtract_length m.pos b, ((validBlock_iff_eq_eccEncode_eccExtract m.pos hb).mp hvalid).symm⟩
  · rintro ⟨d, hd, rfl⟩
    exact validBlock_eccEncode m.pos hd
  · rw [← eccExtract_eccEncode m.pos hd, h, eccExtract_eccEncode m.pos hd']

/-- Settles O35, entry by entry, and by the data bits of an encoded chunk. -/
theorem eccExtractReadsTheDataPositions : Obligations.EccExtractReadsTheDataPositions :=
  ⟨fun b s hb => ⟨_, exec_eccExt_of_length hb, eccExtract_length s.msgBits.pos b,
    fun _ hk => eccExtract_getD s.msgBits.pos b hk⟩, fun m _ hd => eccExtract_eccEncode m.pos hd⟩

/-- Settles O36: the sum by induction on the number of checks, and no bit of it from the `r`-th on. -/
theorem syndromeSumsTheFailingChecks : Obligations.SyndromeSumsTheFailingChecks := by
  intro m b
  exact ⟨syndrome_eq_sum b _ _, syndrome_lt_two_pow b _ _⟩

/-- Settles O37: the sum is the syndrome, and each bit of the corrected block depends on whether the syndrome names it. -/
theorem eccCorrectFlipsTheSyndromePosition : Obligations.EccCorrectFlipsTheSyndromePosition := by
  intro b s hb
  exact ⟨syndrome b (blockBits s.msgBits.val) (redBits s.msgBits.val), _, syndrome_eq_sum b _ _, exec_eccCor_of_length hb,
    eccCorrect_length _ b, fun _ hk hkn => bitAt_eccCorrect hb hk hkn⟩

/-- Settles O38: the syndrome of a valid block is 0, that of one flip is its position, and the second flip there undoes the first. -/
theorem singleErrorIsCorrected : Obligations.SingleErrorIsCorrected := by
  intro m d hd
  have hzero := syndrome_eccEncode m.pos hd
  have hclean := eccCorrect_of_syndrome_eq_zero hzero
  refine ⟨hzero, hclean, ?_, fun i hi hin =>
    ⟨syndrome_flipAt_eccEncode m.pos hd hi hin, eccCorrect_flipAt_eccEncode m.pos hd hi hin⟩⟩
  rintro x (rfl | ⟨i, hi, hin, rfl⟩)
  · rw [hclean, eccExtract_eccEncode m.pos hd]
  · rw [eccCorrect_flipAt_eccEncode m.pos hd hi (by simpa using hin), eccExtract_eccEncode m.pos hd]

/-- Settles O39: two flips leave three wrong positions, `i`, `j` and `i XOR j`, and the data survive when none of them holds data. -/
theorem doubleErrorIsMiscorrected : Obligations.DoubleErrorIsMiscorrected := by
  intro m d i j hd hi hin hj hjn hij
  refine ⟨syndrome_flipAt_flipAt_eccEncode m.pos hd hi hin hj hjn, Nat.xor_ne_zero_iff.mpr hij, ?_⟩
  rw [eccExtract_eccCorrect_two_flips_eq_iff m.pos hd hi hin hj hjn hij, not_mem_dataPositions_pair_and_xor_iff hi hin hj hjn hij]

end Sys2Proof.Proofs
end

section
/-! SUPPORT. The reassembler (45_reassembler.md): what one push does in each row of the table of R151, the invariant of R160, and what an
emission says of the buffer. -/

namespace Sys2Proof.Machine

/-! ## The tests on the buffer -/

/-- The end test compares what the buffer ends with (45_reassembler.md R152). -/
theorem last_eq_delim_iff {b : Bits} : last b 5 = delim ↔ delim <:+ b := by
  rw [last_eq_drop, List.suffix_iff_eq_drop, eq_comm]
  rfl

/-- The end test finds no complete frame (45_reassembler.md R151, fourth row). -/
theorem not_ended_of_short_or_not_suffix {b : Bits} (h : b.length < 10 ∨ ¬ delim <:+ b) :
    ¬ (10 ≤ b.length ∧ last b 5 = delim) := by
  rw [last_eq_delim_iff]
  rintro ⟨hlength, hsuffix⟩
  exact h.elim (Nat.not_lt.mpr hlength) (not_not_intro hsuffix)

theorem State.overflows_eq_false_iff {s : State} {k : Nat} : s.overflows k = false ↔ s.Fits k := by
  refine ⟨s.fits_of_not_overflows, fun hfits => ?_⟩
  cases hcap : s.bufCap with
  | none => exact s.overflows_none hcap k
  | some cap =>
    rw [Bool.eq_false_iff, ne_eq, s.overflows_some hcap]
    exact Nat.not_lt.mpr (hfits cap hcap)

/-! ## The end test -/

theorem State.endTest_of_not_ended {s : State} (h : ¬ (10 ≤ s.buf.length ∧ last s.buf 5 = delim)) :
    s.endTest = s.returns .nothing :=
  if_neg fun hended => h hended.2

theorem State.endTest_of_awaitingStart {s : State} (h : s.fsm = .awaitingStart) : s.endTest = s.returns .nothing :=
  if_neg fun hended => absurd (h.symm.trans hended.1) (by decide)

/-- The end of a complete frame by the answer of its completion path: the emission, or the latched fault (45_reassembler.md R155). -/
def State.complete (s : State) : Except Raised (List Byte) → State
  | .ok t => s.emit t
  | .error f => s.raiseLatched f

/-- FR.DEFRAME cannot fault on a frame, so LC.DEC and BC.FROMBIN alone decide (45_reassembler.md R155). -/
theorem completion_frame (t : LcTable) (p : Bits) : completion t (frame p) = (lineDecode t p).bind fromBinary := by
  simp only [completion, deframe_frame]
  cases lineDecode t p with
  | ok q => rfl
  | error f => rfl

/-- What the completion path decodes is a frame (45_reassembler.md R155). -/
theorem completion_eq_ok_iff {t : LcTable} {b : Bits} {x : List Byte} :
    completion t b = .ok x ↔ ∃ p q, b = frame p ∧ lineDecode t p = .ok q ∧ fromBinary q = .ok x := by
  constructor
  · intro h
    cases hd : deframe b with
    | error f => simp [completion, hd] at h
    | ok p =>
      obtain rfl := deframe_eq_ok_iff.mp hd
      rw [completion_frame] at h
      cases hq : lineDecode t p with
      | error f => simp [hq, Except.bind] at h
      | ok q =>
        rw [hq] at h
        exact ⟨p, q, rfl, hq, h⟩
  · rintro ⟨p, q, rfl, hq, hx⟩
    rw [completion_frame, hq]
    exact hx

theorem State.endTest_of_frame {s : State} {p : Bits} (hfsm : s.fsm = .inFrame) (hbuf : s.buf = frame p) :
    s.endTest = s.complete ((lineDecode s.lcTable p).bind fromBinary) := by
  have hended : s.fsm = .inFrame ∧ 10 ≤ s.buf.length ∧ last s.buf 5 = delim := by
    simp [hfsm, hbuf]
  rw [← completion_frame, ← hbuf, State.endTest, if_pos hended]
  cases completion s.lcTable s.buf with
  | ok t => rfl
  | error f => rfl

/-! ## The start test -/

theorem State.startTest_of_desync {s : State} (hfsm : s.fsm = .awaitingStart) (hlength : 5 ≤ s.buf.length)
    (hfirst : first s.buf 5 ≠ delim) : s.startTest = s.raiseLatched ⟨.framingDesync, .rsm⟩ := by
  rw [State.startTest, if_pos ⟨hfsm, hlength⟩, if_pos hfirst]

theorem State.startTest_of_short {s : State} (hlength : s.buf.length < 5) : s.startTest = s.endTest :=
  if_neg fun htest => Nat.not_lt.mpr htest.2 hlength

theorem State.startTest_of_inFrame {s : State} (hfsm : s.fsm = .inFrame) : s.startTest = s.endTest :=
  if_neg fun htest => absurd (hfsm.symm.trans htest.1) (by decide)

theorem State.enterFrame_of_inFrame {s : State} (hfsm : s.fsm = .inFrame) : s.enterFrame = s := by
  rw [State.enterFrame, ← hfsm]

/-- A buffer that begins with the delimiter meets the end test in InFrame, from either STATE (45_reassembler.md R157). -/
theorem State.startTest_of_started {s : State} (hlength : 5 ≤ s.buf.length) (hfirst : first s.buf 5 = delim) :
    s.startTest = s.enterFrame.endTest := by
  cases hfsm : s.fsm with
  | awaitingStart => rw [State.startTest, if_pos ⟨hfsm, hlength⟩, if_neg (not_not_intro hfirst)]
  | inFrame => rw [State.startTest_of_inFrame hfsm, State.enterFrame_of_inFrame hfsm]

/-! ## One push -/

theorem exec_rsmPush (d : Bits) (s : State) : exec (.rsmPush d) s = .next (s.push d) := by
  rfl

section Push

variable {s : State} {d : Bits} (hfault : s.faultCode = .none) (hlength : d.length = s.msgBits.val)

include hfault hlength

theorem State.push_of_overflow {cap : Nat} (hcap : s.bufCap = some cap) (hfull : cap < s.buf.length + s.msgBits.val) :
    s.push d = s.raiseLatched ⟨.bufferOverflow, .rsm⟩ := by
  have hoverflows : s.overflows d.length = true := (s.overflows_some hcap _).mpr (hlength ▸ hfull)
  rw [State.push, if_neg (not_not_intro hfault), if_neg (not_not_intro hlength), if_pos hoverflows]

theorem State.push_of_fits (hfits : s.Fits d.length) : s.push d = (s.append d).startTest := by
  have hoverflows : ¬ s.overflows d.length = true := by
    simp [State.overflows_eq_false_iff.mpr hfits]
  rw [State.push, if_neg (not_not_intro hfault), if_neg (not_not_intro hlength), if_neg hoverflows]

/-- The push that makes the buffer a frame ends as its completion path answers, from either STATE (45_reassembler.md R155, R157). -/
theorem State.push_of_frame {p : Bits} (hfits : s.Fits d.length) (hbuf : s.buf ++ d = frame p) :
    s.push d = (s.append d).enterFrame.complete ((lineDecode s.lcTable p).bind fromBinary) := by
  have hfive : 5 ≤ (s.append d).buf.length := by
    simp only [State.append_buf, hbuf, frame_length]
    omega
  have hfirst : first (s.append d).buf 5 = delim := by
    simp only [State.append_buf, hbuf, first_frame]
  rw [State.push_of_fits hfault hlength hfits, State.startTest_of_started hfive hfirst]
  exact State.endTest_of_frame rfl hbuf

end Push

/-! ## What the instructions do to the receiver -/

/-- The instruction pushes the chunk `d`: the operand of RSM.PUSH, or the corrected and extracted data of the block of RX.BLOCK
(46_pipeline.md R173). -/
def State.Pushes (s : State) (i : Instr) (d : Bits) : Prop :=
  i = .rsmPush d ∨ ∃ b, i = .rxBlock b ∧ b.length = blockBits s.msgBits.val ∧
    d = eccExtract s.msgBits.val (eccCorrect s.msgBits.val b)

/-- Every instruction restarts the core, pushes a chunk, or writes the outputs alone with no message (10_state.md R31). -/
theorem exec_cases (i : Instr) (s : State) :
    exec i s = .next s.restart ∨ (∃ d, s.Pushes i d ∧ exec i s = .next (s.push d)) ∨ ∃ o, exec i s = .next (s.output o) := by
  by_cases hreset : i = .sysReset
  · subst hreset
    exact .inl rfl
  right
  by_cases hpush : ∃ d, i = .rsmPush d
  · obtain ⟨d, rfl⟩ := hpush
    exact .inl ⟨d, .inl rfl, exec_rsmPush d s⟩
  by_cases hblock : ∃ x, i = .rxBlock x
  · obtain ⟨x, rfl⟩ := hblock
    obtain ⟨-, h⟩ | ⟨-, hx, h⟩ := execRxBlock_cases s x
    · exact .inr ⟨(.refused, []), h⟩
    · exact .inl ⟨_, .inr ⟨x, rfl, hx, rfl⟩, h⟩
  · obtain ⟨f, hf⟩ := hasPureOutput_of_ne (not_exists.mp hpush) (not_exists.mp hblock) hreset
    exact .inr ⟨_, hf s⟩

/-! ## Emission -/

theorem State.endTest_eq_emit {s : State} {x : List Byte} (h : s.endTest.msgOut = some x) :
    completion s.lcTable s.buf = .ok x ∧ s.endTest = s.emit x := by
  obtain ⟨-, hs⟩ | ⟨-, ⟨t, ht, hs⟩ | ⟨f, -, hs⟩⟩ := s.endTest_cases
  all_goals rw [hs] at h ⊢
  · cases h
  · cases h; exact ⟨ht, rfl⟩
  · cases h

theorem State.startTest_eq_emit {s : State} {x : List Byte} (h : s.startTest.msgOut = some x) :
    completion s.lcTable s.buf = .ok x ∧ s.startTest = s.emit x := by
  obtain ⟨-, -, -, hs⟩ | ⟨-, -, -, hs⟩ | ⟨-, hs⟩ := s.startTest_cases
  all_goals rw [hs] at h ⊢
  · cases h
  · exact s.enterFrame.endTest_eq_emit h
  · exact s.endTest_eq_emit h

/-- A push that emits had room and no fault recorded, and completed the buffer (45_reassembler.md R153, R155). -/
theorem State.push_eq_emit {s : State} {d : Bits} {x : List Byte} (h : (s.push d).msgOut = some x) :
    s.faultCode = .none ∧ d.length = s.msgBits.val ∧ s.Fits d.length ∧
      completion s.lcTable (s.buf ++ d) = .ok x ∧ s.push d = (s.append d).emit x := by
  obtain ⟨-, hs⟩ | ⟨-, -, -, hs⟩ | ⟨hfault, hlength, hroom, hs⟩ := s.push_cases d
  all_goals rw [hs] at h ⊢
  · cases h
  · cases h
  · obtain ⟨hcompletion, hemit⟩ := State.startTest_eq_emit h
    exact ⟨hfault, hlength, State.overflows_eq_false_iff.mp hroom, hcompletion, hemit⟩

/-! ## The invariant -/

/-- The buffer grows in whole chunks and fits its capacity, also while a fault is recorded (45_reassembler.md R160, 10_state.md R22). -/
structure State.BufWhole (s : State) : Prop where
  aligned : s.buf.length % s.msgBits.val = 0
  fits : s.Fits 0

theorem State.Inv.bufWhole {s : State} (h : s.Inv) : s.BufWhole := ⟨h.bufAligned, h.bufFits⟩

theorem State.BufWhole.append {s : State} {d : Bits} (h : s.BufWhole) (hlength : d.length = s.msgBits.val)
    (hfits : s.Fits d.length) : (s.append d).BufWhole := by
  refine ⟨?_, fun cap hcap => ?_⟩
  · simp [hlength, h.aligned]
  · simpa using hfits cap hcap

/-- While a fault is recorded the invariant asks nothing of STATE (45_reassembler.md R160). -/
theorem State.inv_raiseLatched {s : State} {f : Raised} (h : s.BufWhole) (hf : f.code ≠ .none ∧ f.unit ≠ .none) :
    (s.raiseLatched f).Inv where
  bufAligned := h.aligned
  bufFits := h.fits
  faultPaired := iff_of_false hf.1 hf.2
  awaitingShort hnone := absurd hnone hf.1
  inFrameStarted hnone := absurd hnone hf.1
  inFrameOpen hnone := absurd hnone hf.1
  awaitingEmpty hnone := absurd hnone hf.1

section Unfaulted

variable {s : State} (hcode : s.faultCode = .none) (hunit : s.faultUnit = .none)

include hcode hunit

/-- A buffer of whole chunks that is shorter than one chunk is empty, so clause (e) of R160 follows from (a) and (b). -/
theorem State.inv_of_awaitingStart (h : s.BufWhole) (hfsm : s.fsm = .awaitingStart) (hshort : s.buf.length < 5) : s.Inv where
  bufAligned := h.aligned
  bufFits := h.fits
  faultPaired := iff_of_true hcode hunit
  awaitingShort _ _ := hshort
  inFrameStarted _ hin := absurd (hfsm.symm.trans hin) (by decide)
  inFrameOpen _ hin := absurd (hfsm.symm.trans hin) (by decide)
  awaitingEmpty _ hm _ :=
    List.length_eq_zero_iff.mp (Nat.eq_zero_of_dvd_of_lt (Nat.dvd_of_mod_eq_zero h.aligned) (hshort.trans_le hm))

theorem State.inv_of_inFrame (h : s.BufWhole) (hfsm : s.fsm = .inFrame) (hlength : 5 ≤ s.buf.length)
    (hfirst : first s.buf 5 = delim) (hopen : ¬ (10 ≤ s.buf.length ∧ last s.buf 5 = delim)) : s.Inv where
  bufAligned := h.aligned
  bufFits := h.fits
  faultPaired := iff_of_true hcode hunit
  awaitingShort _ hawait := absurd (hfsm.symm.trans hawait) (by decide)
  inFrameStarted _ _ := ⟨hlength, hfirst⟩
  inFrameOpen _ _ := hopen
  awaitingEmpty _ _ hawait := absurd (hfsm.symm.trans hawait) (by decide)

/-- A core that awaits a frame with nothing received has the invariant, whatever its parameters (45_reassembler.md R160). -/
theorem State.inv_of_empty (hfsm : s.fsm = .awaitingStart) (hbuf : s.buf = []) : s.Inv := by
  refine State.inv_of_awaitingStart hcode hunit ⟨?_, fun cap _ => ?_⟩ hfsm ?_
  all_goals simp [hbuf]

theorem State.inv_endTest (h : s.BufWhole) (hfsm : s.fsm = .inFrame) (hlength : 5 ≤ s.buf.length)
    (hfirst : first s.buf 5 = delim) : s.endTest.Inv := by
  obtain ⟨hopen, hs⟩ | ⟨-, ⟨t, -, hs⟩ | ⟨f, hf, hs⟩⟩ := s.endTest_cases
  all_goals rw [hs]
  · exact State.inv_of_inFrame hcode hunit ⟨h.aligned, h.fits⟩ hfsm hlength hfirst fun hended => hopen ⟨hfsm, hended⟩
  · exact State.inv_of_empty hcode hunit rfl rfl
  · exact State.inv_raiseLatched h (completion_error hf)

theorem State.inv_startTest (h : s.BufWhole)
    (hstarted : s.fsm = .inFrame → 5 ≤ s.buf.length ∧ first s.buf 5 = delim) : s.startTest.Inv := by
  obtain ⟨-, -, -, hs⟩ | ⟨-, hlength, hfirst, hs⟩ | ⟨hnone, hs⟩ := s.startTest_cases
  all_goals rw [hs]
  · exact State.inv_raiseLatched h (by decide)
  · exact State.inv_endTest (s := s.enterFrame) hcode hunit ⟨h.aligned, h.fits⟩ rfl hlength hfirst
  · cases hfsm : s.fsm with
    | awaitingStart =>
      have hshort : s.buf.length < 5 := Nat.lt_of_not_le fun hlength => hnone ⟨hfsm, hlength⟩
      rw [State.endTest_of_awaitingStart hfsm]
      exact State.inv_of_awaitingStart (s := s.returns .nothing) hcode hunit ⟨h.aligned, h.fits⟩ hfsm hshort
    | inFrame =>
      obtain ⟨hlength, hfirst⟩ := hstarted hfsm
      exact State.inv_endTest hcode hunit h hfsm hlength hfirst

end Unfaulted

/-- `t` has the receiver of `s`: the elements that the invariant speaks of (10_state.md R21 to R24). -/
structure State.SameReceiver (s t : State) : Prop where
  fsm : t.fsm = s.fsm
  buf : t.buf = s.buf
  faultCode : t.faultCode = s.faultCode
  faultUnit : t.faultUnit = s.faultUnit
  msgBits : t.msgBits = s.msgBits
  bufCap : t.bufCap = s.bufCap

theorem State.Inv.of_sameReceiver {s t : State} (h : s.Inv) (hst : s.SameReceiver t) : t.Inv := by
  obtain ⟨hfsm, hbuf, hcode, hunit, hm, hcap⟩ := hst
  constructor
  case bufAligned => rw [hbuf, hm]; exact h.bufAligned
  case bufFits => rw [hbuf, hcap]; exact h.bufFits
  case faultPaired => rw [hcode, hunit]; exact h.faultPaired
  case awaitingShort => rw [hcode, hfsm, hbuf]; exact h.awaitingShort
  case inFrameStarted => rw [hcode, hfsm, hbuf]; exact h.inFrameStarted
  case inFrameOpen => rw [hcode, hfsm, hbuf]; exact h.inFrameOpen
  case awaitingEmpty => rw [hcode, hm, hfsm, hbuf]; exact h.awaitingEmpty

theorem State.inv_restart (s : State) : s.restart.Inv := State.inv_of_empty rfl rfl rfl rfl

/-- Appended bits leave the beginning of the buffer as it was (45_reassembler.md R154). -/
theorem State.Inv.started_append {s : State} (h : s.Inv) (hfault : s.faultCode = .none) (hfsm : s.fsm = .inFrame) (d : Bits) :
    5 ≤ (s.buf ++ d).length ∧ first (s.buf ++ d) 5 = delim := by
  obtain ⟨hlength, hfirst⟩ := h.inFrameStarted hfault hfsm
  refine ⟨hlength.trans (by simp), ?_⟩
  rwa [first_eq_take, List.take_append_of_le_length hlength]

theorem State.Inv.push {s : State} (h : s.Inv) (d : Bits) : (s.push d).Inv := by
  obtain ⟨-, hs⟩ | ⟨-, -, -, hs⟩ | ⟨hfault, hlength, hroom, hs⟩ := s.push_cases d
  all_goals rw [hs]
  · exact h.of_sameReceiver ⟨rfl, rfl, rfl, rfl, rfl, rfl⟩
  · exact State.inv_raiseLatched h.bufWhole (by decide)
  · have hwhole := h.bufWhole.append hlength (State.overflows_eq_false_iff.mp hroom)
    exact State.inv_startTest (s := s.append d) hfault (h.faultPaired.mp hfault) hwhole fun hfsm =>
      h.started_append hfault hfsm d

theorem State.Inv.exec {s t : State} {i : Instr} (h : s.Inv) (ht : exec i s = .next t) : t.Inv := by
  obtain hs | ⟨d, -, hs⟩ | ⟨o, hs⟩ := exec_cases i s
  all_goals rw [hs] at ht; cases ht
  · exact s.inv_restart
  · exact h.push d
  · exact h.of_sameReceiver ⟨rfl, rfl, rfl, rfl, rfl, rfl⟩

/-! ## No false end detection -/

theorem slice_append_left {s t : Bits} {a b : Nat} (ha : a ≤ b) (hb : b ≤ s.length) : slice (s ++ t) a b = slice s a b := by
  rw [slice, slice, List.drop_append_of_le_length (ha.trans hb), List.take_append_of_le_length]
  rw [List.length_drop]
  omega

theorem slice_append_right (s t : Bits) (a b : Nat) : slice (s ++ t) (s.length + a) (s.length + b) = slice t a b := by
  rw [slice, slice, List.drop_length_add_append, Nat.add_sub_add_left]

/-- The end test at a buffer of `k` bits looks at the window that ends there (45_reassembler.md R152). -/
theorem last_take {s : Bits} {k : Nat} (hk : k ≤ s.length) (n : Nat) : last (s.take k) n = slice s (k - n) k := by
  rw [last_eq_drop, List.length_take, Nat.min_eq_left hk, List.drop_take, slice]

/-- A window that begins in a data symbol of LC_TABLE_STD and ends in the next symbol, or in the end delimiter before its last bit,
is not the delimiter (30_encoding.md R63 (b)). -/
theorem slice_symbolBits_append_ne_delim (i : Fin 16) :
    ∀ p ∈ delim :: (List.finRange 16).map (symbolBits lcTableStd), ∀ j < 5,
      slice (symbolBits lcTableStd i ++ p) j (j + 5) ≠ delim := by
  revert i
  decide

/-- In `payload ++ DELIM` the delimiter occurs only at the very end (30_encoding.md R63 (b)). -/
theorem slice_payload_append_delim_ne_delim (l : List (Fin 16)) {j : Nat} (hj : j < 5 * l.length) :
    slice (l.flatMap (symbolBits lcTableStd) ++ delim) j (j + 5) ≠ delim := by
  induction l generalizing j with
  | nil => simp at hj
  | cons i l ih =>
    rw [List.flatMap_cons, List.append_assoc]
    by_cases hfirst : j < 5
    · cases l with
      | nil => exact slice_symbolBits_append_ne_delim i delim List.mem_cons_self j hfirst
      | cons i' l =>
        have hwindow : j + 5 ≤ (symbolBits lcTableStd i ++ symbolBits lcTableStd i').length := by
          simp only [List.length_append, symbolBits_length]
          omega
        rw [List.flatMap_cons, List.append_assoc, ← List.append_assoc, slice_append_left (by omega) hwindow]
        exact slice_symbolBits_append_ne_delim i _ (by simp) j hfirst
    · obtain ⟨k, rfl⟩ := Nat.exists_eq_add_of_le (Nat.le_of_not_lt hfirst)
      have hk : k < 5 * l.length := by
        rw [List.length_cons] at hj
        omega
      have hdrop := slice_append_right (symbolBits lcTableStd i) (l.flatMap (symbolBits lcTableStd) ++ delim) k (k + 5)
      rw [symbolBits_length] at hdrop
      rw [Nat.add_assoc, hdrop]
      exact ih hk

theorem lineEncode_eq_ok {t : LcTable} {b e : Bits} (h : lineEncode t b = .ok e) :
    ∃ l : List (Fin 16), e = l.flatMap (symbolBits t) := by
  by_cases hlength : b.length % 4 = 0
  · obtain ⟨l, rfl⟩ := exists_eq_flatMap_groupBits hlength
    rw [lineEncode_flatMap_groupBits] at h
    cases h
    exact ⟨l, rfl⟩
  · rw [lineEncode_of_length_mod_ne t hlength] at h
    cases h

/-- The sender's frame has a payload of data symbols (46_pipeline.md R172). -/
theorem sendFrame_eq_ok {t : LcTable} {m : Nat} {text : List Byte} {f : Bits} (h : sendFrame t m text = .ok f) :
    ∃ l : List (Fin 16), f = frame (l.flatMap (symbolBits t)) := by
  simp only [sendFrame] at h
  split at h
  · cases h
  · rename_i e he
    cases h
    obtain ⟨l, rfl⟩ := lineEncode_eq_ok he
    exact ⟨l, rfl⟩

end Sys2Proof.Machine
end

section
/-! SUPPORT. The obligations about the reassembler (45_reassembler.md). -/

namespace Sys2Proof.Proofs

open Sys2Proof.Machine

/-- Settles O47: what a step performs is an instruction, which keeps the invariant, or changes nothing the invariant speaks of. -/
theorem stepKeepsTheReceiverInvariant : Obligations.StepKeepsTheReceiverInvariant := by
  intro s t hinv h
  have htaken (rest : List Request) : (s.withInput rest).Inv := hinv.of_sameReceiver ⟨rfl, rfl, rfl, rfl, rfl, rfl⟩
  obtain ⟨-, hs⟩ | ⟨p, rest, i, -, -, hs⟩ | ⟨p, rest, e, -, -, hs⟩ | ⟨rest, -, hs⟩ | ⟨m, rest, -, hs⟩ := step_cases s
  all_goals rw [hs] at h
  · cases h; exact hinv.of_sameReceiver ⟨rfl, rfl, rfl, rfl, rfl, rfl⟩
  · exact (htaken rest).exec h
  · cases h; exact hinv.of_sameReceiver ⟨rfl, rfl, rfl, rfl, rfl, rfl⟩
  · cases h; exact State.inv_restart _
  · cases h; exact hinv.of_sameReceiver ⟨rfl, rfl, rfl, rfl, rfl, rfl⟩

/-- Settles O48: the reset state awaits a frame with nothing received. -/
theorem resetHasTheReceiverInvariant : Obligations.ResetHasTheReceiverInvariant :=
  State.inv_of_empty rfl rfl rfl rfl

/-- Settles O42: the test of the capacity stands before the append. -/
theorem pushOverflowLeavesTheBuffer : Obligations.PushOverflowLeavesTheBuffer := by
  intro s d cap hfault hlength hcap hfull
  rw [exec_rsmPush, State.push_of_overflow hfault hlength hcap hfull]
  rfl

/-- Settles O43: the start test fails on the appended buffer, and the fault is latched in the state after the append. -/
theorem pushWithoutStartDelimiterDesyncs : Obligations.PushWithoutStartDelimiterDesyncs := by
  intro s d hfault hlength hfits hfsm hfive hfirst
  rw [exec_rsmPush, State.push_of_fits hfault hlength hfits, State.startTest_of_desync (s := s.append d) hfsm hfive hfirst]
  rfl

/-- Settles O44: in each clause the end test is reached, in the STATE that the start test leaves, and finds no complete frame. -/
theorem pushAccumulates : Obligations.PushAccumulates := by
  intro s d hfault hlength hfits
  rw [exec_rsmPush, State.push_of_fits hfault hlength hfits]
  refine ⟨fun hfsm hshort => ?_, fun _ hfive hfirst hopen => ?_, fun hfsm hopen => ?_⟩
  · rw [State.startTest_of_short (s := s.append d) hshort, State.endTest_of_awaitingStart (s := s.append d) hfsm]
    rfl
  · have hwaits : (s.append d).enterFrame.endTest = (s.append d).enterFrame.returns .nothing :=
      State.endTest_of_not_ended (not_ended_of_short_or_not_suffix hopen)
    rw [State.startTest_of_started (s := s.append d) hfive hfirst, hwaits]
    rfl
  · have hwaits : (s.append d).endTest = (s.append d).returns .nothing :=
      State.endTest_of_not_ended (not_ended_of_short_or_not_suffix hopen)
    rw [State.startTest_of_inFrame (s := s.append d) hfsm, hwaits]
    rfl

/-- Settles O45: the appended buffer is a frame whose completion path answers the text. -/
theorem pushCompletesTheFrame : Obligations.PushCompletesTheFrame := by
  intro s d p q t hfault hlength hfits hbuf hdecode hbytes
  have hanswer : (lineDecode s.lcTable p).bind fromBinary = .ok t := by
    rw [hdecode]
    exact hbytes
  rw [exec_rsmPush, State.push_of_frame hfault hlength hfits hbuf, hanswer]
  rfl

/-- Settles O46: the appended buffer is a frame whose completion path answers the fault of its first failing decoder. -/
theorem pushCompletionFaultKeepsTheBuffer : Obligations.PushCompletionFaultKeepsTheBuffer := by
  intro s d p f hfault hlength hfits hbuf hfails
  have hanswer : (lineDecode s.lcTable p).bind fromBinary = .error f := by
    obtain hdecode | ⟨q, hdecode, hbytes⟩ := hfails
    · rw [hdecode]
      rfl
    · rw [hdecode]
      exact hbytes
  rw [exec_rsmPush, State.push_of_frame hfault hlength hfits hbuf, hanswer]
  rfl

/-- Settles O51: an instruction that does not push leaves no message, and a push that emits found a frame in the buffer. -/
theorem emissionOnlyByACompletedFrame : Obligations.EmissionOnlyByACompletedFrame := by
  intro i s t x ht hx
  obtain hs | ⟨d, hpushes, hs⟩ | ⟨o, hs⟩ := exec_cases i s
  all_goals rw [hs] at ht; cases ht
  · cases hx
  · obtain ⟨hfault, hlength, hfits, hcompletion, hemit⟩ := State.push_eq_emit hx
    obtain ⟨p, q, hbuf, hdecode, hbytes⟩ := completion_eq_ok_iff.mp hcompletion
    rw [hemit]
    exact ⟨hfault, rfl, ⟨rfl, rfl, hfault⟩, d, p, q, hpushes, hlength, hfits, hbuf, hdecode, hbytes⟩
  · cases hx

/-- Settles O56: past the start delimiter the frame is `payload ++ DELIM`, and the window of the end test lies in it. -/
theorem standardTableHasNoFalseEnd : Obligations.StandardTableHasNoFalseEnd := by
  intro m text f hf k hten hk
  obtain ⟨l, rfl⟩ := sendFrame_eq_ok hf
  obtain ⟨j, rfl⟩ := Nat.exists_eq_add_of_le hten
  have hj : j < 5 * l.length := by
    rw [frame_length, length_flatMap_of_width (symbolBits_length _)] at hk
    omega
  have hdelim : delim.length = 5 := rfl
  have hfrom : 10 + j - 5 = delim.length + j := by omega
  have hto : 10 + j = delim.length + (j + 5) := by omega
  rw [last_take hk.le, hfrom, hto, frame, List.append_assoc, slice_append_right]
  exact slice_payload_append_delim_ne_delim l hj

end Sys2Proof.Proofs
end

section
/-! SUPPORT. The pipeline and system operations (46_pipeline.md): the instructions, and the sender pipeline on a text, whose padding is
whole zero bytes. -/

namespace Sys2Proof.Machine

/-! ## While a fault is recorded -/

theorem State.push_of_faulted {s : State} (hfault : s.faultCode ≠ .none) (d : Bits) : s.push d = s.refuse :=
  if_pos hfault

theorem exec_rxBlock_of_faulted {s : State} (hfault : s.faultCode ≠ .none) (x : Bits) : exec (.rxBlock x) s = .next s.refuse :=
  if_pos hfault

/-- With a fault recorded every instruction but SYS.RESET writes the outputs alone (60_exceptions.md R186). -/
theorem exec_of_faulted {i : Instr} {s : State} (hfault : s.faultCode ≠ .none) (hreset : i ≠ .sysReset) :
    ∃ o, exec i s = .next (s.output o) := by
  by_cases hpush : ∃ d, i = .rsmPush d
  · obtain ⟨d, rfl⟩ := hpush
    exact ⟨(.refused, []), congrArg Host.Outcome.next (State.push_of_faulted hfault d)⟩
  by_cases hblock : ∃ x, i = .rxBlock x
  · obtain ⟨x, rfl⟩ := hblock
    exact ⟨(.refused, []), exec_rxBlock_of_faulted hfault x⟩
  · obtain ⟨f, hf⟩ := hasPureOutput_of_ne (not_exists.mp hpush) (not_exists.mp hblock) hreset
    exact ⟨_, hf s⟩

/-! ## TX.CHUNK -/

theorem exec_txChunk (f : Bits) (s : State) :
    exec (.txChunk f) s = .next (s.answer ((chunk s.msgBits.val f).map .list)) := by
  rfl

theorem chunk_of_length_mod_ne {m : Nat} {f : Bits} (h : f.length % m ≠ 0) :
    chunk m f = .error ⟨.invariantViolation, .pipeline⟩ := if_pos h

theorem chunk_of_length_mod_eq {m : Nat} {f : Bits} (h : f.length % m = 0) : chunk m f = .ok (groups m f) :=
  if_neg (not_not.mpr h)

/-! ## TX.SEND -/

/-- The padding of a text is whole zero bytes, as many as make its frame whole chunks (41_padder.md R100, R102). -/
theorem minPadBits_toBinary {m : Nat} (hm : 0 < m) (k : Nat) :
    ∃ n, minPadBits (8 * k) m = 8 * n ∧ m ∣ 10 * (n + k + 1) := by
  obtain ⟨i, hfirst⟩ : ∃ i, IsFirstFit m ((8 * k + 7) / 8) i := ⟨_, isFirstFit_mul_ceilDiv hm rfl _⟩
  have hpad := minPadBits_of_isFirstFit hm hfirst
  obtain ⟨⟨hlt, hdvd⟩, -⟩ := hfirst
  refine ⟨i - 1 - k, by omega, ?_⟩
  have hi : i - 1 - k + k + 1 = i := by omega
  rwa [hi]

/-- The symbols of the groups that `l` indexes, as LC.ENC joins them (42_linecoder.md R110). -/
def payload (lc : LcTable) (l : List (Fin 16)) : Bits := l.flatMap (symbolBits lc)

@[simp] theorem payload_length (lc : LcTable) (l : List (Fin 16)) : (payload lc l).length = 5 * l.length :=
  length_flatMap_of_width (symbolBits_length lc) l

/-- `l` indexes the 4-bit groups of the padded text that the sender hands to LC.ENC: its frame is whole chunks of `m` bits, and
BC.FROMBIN reads the text back without its zero bytes (46_pipeline.md R172, 40_bitcodec.md R92). -/
structure IsPayload (m : Nat) (t : List Byte) (l : List (Fin 16)) : Prop where
  padded : padFront (toBinary t) (minPadBits (8 * t.length) m) = l.flatMap groupBits
  whole : (5 * l.length + 10) % m = 0
  decodes : fromBinary (l.flatMap groupBits) = .ok (t.filter (· ≠ 0#8))

theorem exists_isPayload {m : Nat} (hm : 0 < m) (t : List Byte) : ∃ l, IsPayload m t l := by
  obtain ⟨n, hpad, hdvd⟩ := minPadBits_toBinary hm t.length
  have hzeros : (List.replicate n 0#8).filter (· ≠ 0#8) = [] := by simp
  have hpadded : padFront (toBinary t) (minPadBits (8 * t.length) m) = toBinary (List.replicate n 0#8 ++ t) := by
    rw [hpad, padFront, toBinary_append, toBinary_replicate_zero]
  have hlength : (toBinary (List.replicate n 0#8 ++ t)).length = 8 * (n + t.length) := by simp
  obtain ⟨l, hl⟩ := exists_eq_flatMap_groupBits (b := toBinary (List.replicate n 0#8 ++ t)) (by omega)
  have hgroups := length_flatMap_of_width groupBits_length l
  rw [← hl] at hgroups
  have hframe : 5 * l.length + 10 = 10 * (n + t.length + 1) := by omega
  refine ⟨l, hpadded.trans hl, hframe ▸ Nat.mod_eq_zero_of_dvd hdvd, ?_⟩
  rw [← hl, fromBinary_toBinary, List.filter_append, hzeros, List.nil_append]

namespace IsPayload

variable {m : Nat} {t : List Byte} {l : List (Fin 16)}

theorem lineEncode_eq (h : IsPayload m t l) (lc : LcTable) :
    lineEncode lc (padFront (toBinary t) (minPadBits (8 * t.length) m)) = .ok (payload lc l) := by
  rw [h.padded, lineEncode_flatMap_groupBits, payload]

theorem sendFrame_eq (h : IsPayload m t l) (lc : LcTable) : sendFrame lc m t = .ok (frame (payload lc l)) := by
  simp only [sendFrame, toBinary_length, h.lineEncode_eq]

theorem frame_length_mod (h : IsPayload m t l) (lc : LcTable) : (frame (payload lc l)).length % m = 0 := by
  rw [frame_length, payload_length, h.whole]

/-- The frame is at least one chunk, since the delimiters alone make it non-empty. -/
theorem groups_frame_ne_nil (h : IsPayload m t l) (hm : 0 < m) (lc : LcTable) :
    groups m (frame (payload lc l)) ≠ [] := by
  intro hnil
  have hempty := flatten_groups hm _ (h.frame_length_mod lc)
  rw [hnil] at hempty
  simpa [← hempty] using frame_length (payload lc l)

/-- No stage of the sender faults (46_pipeline.md R172). -/
theorem sendBlocks_eq (h : IsPayload m t l) (lc : LcTable) :
    sendBlocks lc m t = .ok ((groups m (frame (payload lc l))).map (eccEncode m)) := by
  simp only [sendBlocks, h.sendFrame_eq, chunk_of_length_mod_eq (h.frame_length_mod lc)]

theorem exec_txSend_eq {s : State} (h : IsPayload s.msgBits.val t l) :
    exec (.txSend t) s = .next (s.transmit
      ((groups s.msgBits.val (frame (payload s.lcTable l))).map (eccEncode s.msgBits.val))) := by
  rw [exec_txSend, h.sendBlocks_eq]
  rfl

/-- The completion path reads the sender's frame back (46_pipeline.md R174). -/
theorem completion_eq (h : IsPayload m t l) (lc : LcTable) :
    completion lc (frame (payload lc l)) = .ok (t.filter (· ≠ 0#8)) :=
  completion_eq_ok_iff.mpr ⟨_, _, rfl, lineDecode_flatMap_symbolBits lc l, h.decodes⟩

end IsPayload

/-! ## RX.BLOCK -/

theorem exec_rxBlock_of_length {s : State} {x : Bits} (hfault : s.faultCode = .none) (hx : x.length = blockBits s.msgBits.val) :
    exec (.rxBlock x) s = .next (s.push (eccExtract s.msgBits.val (eccCorrect s.msgBits.val x))) := by
  obtain ⟨hne | hne, -⟩ | ⟨-, -, h⟩ := execRxBlock_cases s x
  · exact absurd hfault hne
  · exact absurd hx hne
  · exact h

theorem AtMostOneFlip.length_eq {x y : Bits} (h : AtMostOneFlip x y) : y.length = x.length := by
  obtain rfl | ⟨i, -, -, rfl⟩ := h
  · rfl
  · exact flipAt_length x i

/-- ECC.COR restores the encoded chunk (44_hamming.md R138). -/
theorem eccCorrect_of_atMostOneFlip {m : Nat} {d y : Bits} (hm : 0 < m) (hd : d.length = m)
    (h : AtMostOneFlip (eccEncode m d) y) : eccCorrect m y = eccEncode m d := by
  obtain rfl | ⟨i, hi, hin, rfl⟩ := h
  · exact eccCorrect_of_syndrome_eq_zero (syndrome_eccEncode hm hd)
  · exact eccCorrect_flipAt_eccEncode hm hd hi (eccEncode_length m d ▸ hin)

/-- In every state RX.BLOCK of a sent block with at most one flipped bit pushes the chunk that was sent (46_pipeline.md R173). -/
theorem exec_rxBlock_of_atMostOneFlip {s : State} {d y : Bits} (hd : d.length = s.msgBits.val)
    (h : AtMostOneFlip (eccEncode s.msgBits.val d) y) : exec (.rxBlock y) s = .next (s.push d) := by
  have hm := s.msgBits.pos
  by_cases hfault : s.faultCode = .none
  · have hy : y.length = blockBits s.msgBits.val := h.length_eq.trans (eccEncode_length _ d)
    rw [exec_rxBlock_of_length hfault hy, eccCorrect_of_atMostOneFlip hm hd h, eccExtract_eccEncode hm hd]
  · rw [exec_rxBlock_of_faulted hfault, State.push_of_faulted hfault]

end Sys2Proof.Machine
end

section
/-! SUPPORT. The end-to-end law (46_pipeline.md R174): the blocks of a frame arrive as pushes of its chunks, and each push but the last
leaves a proper beginning of the frame in the buffer. -/

namespace Sys2Proof.Machine

/-! ## From blocks to pushes -/

/-- The states after each of the pushes of `ds`, performed in order from `s` (45_reassembler.md R153). -/
def State.pushAll (s : State) : List Bits → List State
  | [] => []
  | d :: ds => s.push d :: (s.push d).pushAll ds

@[simp] theorem State.pushAll_length (s : State) (ds : List Bits) : (s.pushAll ds).length = ds.length := by
  induction ds generalizing s with
  | nil => rfl
  | cons d ds ih => simp [State.pushAll, ih]

/-- The received blocks, each with at most one flipped bit, are the pushes of the sent chunks (44_hamming.md R138). -/
theorem receive_eq_pushAll {s : State} {m : Nat} {ds ys : List Bits} (hm : s.msgBits.val = m) (hds : ∀ d ∈ ds, d.length = m)
    (hys : List.Forall₂ AtMostOneFlip (ds.map (eccEncode m)) ys) : receive s ys = s.pushAll ds := by
  induction ds generalizing s ys with
  | nil =>
    cases hys
    rfl
  | cons d ds ih =>
    obtain ⟨hd, hds⟩ := List.forall_mem_cons.mp hds
    cases hys with
    | cons hy hys =>
      have hstep := exec_rxBlock_of_atMostOneFlip (hd.trans hm.symm) (hm.symm ▸ hy)
      have hnext : (s.push d).msgBits.val = m := (s.push_sameParams d).msgBits ▸ hm
      simp only [receive, hstep, State.pushAll, ih hnext hds hys]

/-! ## A beginning of a frame -/

theorem first_of_append_eq_frame {b r p : Bits} (h : b ++ r = frame p) (hlength : 5 ≤ b.length) : first b 5 = delim := by
  rw [← first_frame p, ← h, first_eq_take, first_eq_take, List.take_append_of_le_length hlength]

/-- At a block boundary before the end of the frame the end test finds nothing (45_reassembler.md R158). -/
theorem NoFalseEnd.not_ended {m : Nat} {f b r : Bits} (h : NoFalseEnd m f) (hf : b ++ r = f) (hb : m ∣ b.length)
    (hr : 0 < r.length) : ¬ (10 ≤ b.length ∧ last b 5 = delim) := by
  subst hf
  obtain ⟨k, hk⟩ := hb
  rintro ⟨hten, hlast⟩
  rw [Nat.mul_comm] at hk
  refine h k (hk ▸ hten) ?_ ?_
  · rw [← hk, List.length_append]
    omega
  · rwa [← hk, List.take_left]

/-- A push that leaves a beginning of a frame with no end in it only accumulates, from either STATE (45_reassembler.md R151). -/
theorem State.push_of_open {s : State} {d r p : Bits} (hfault : s.faultCode = .none) (hlength : d.length = s.msgBits.val)
    (hfits : s.Fits d.length) (hframe : s.buf ++ d ++ r = frame p)
    (hopen : ¬ (10 ≤ (s.buf ++ d).length ∧ last (s.buf ++ d) 5 = delim)) :
    s.push d = (s.append d).returns .nothing ∨ s.push d = (s.append d).enterFrame.returns .nothing := by
  rw [State.push_of_fits hfault hlength hfits]
  by_cases hshort : (s.append d).buf.length < 5
  · exact .inl ((State.startTest_of_short hshort).trans (State.endTest_of_not_ended hopen))
  · have hfive := Nat.le_of_not_lt hshort
    have hstarted := State.startTest_of_started hfive (first_of_append_eq_frame hframe hfive)
    exact .inr (hstarted.trans (State.endTest_of_not_ended hopen))

/-- Room for a string is room for its first part, and then for the rest (00_scope.md R11). -/
theorem State.Fits.append {s : State} {d r : Bits} (h : s.Fits (d ++ r).length) :
    s.Fits d.length ∧ (s.append d).Fits r.length := by
  rw [List.length_append] at h
  refine ⟨fun cap hcap => ?_, fun cap hcap => ?_⟩
  all_goals have hle := h cap hcap
  · omega
  · rwa [State.append_buf, List.length_append, Nat.add_assoc]

/-! ## The chunks of a frame -/

/-- The chunks `ds` are the rest of the frame of payload `p`, whose beginning the receiver holds and whose text is `x`. -/
structure State.Awaits (s : State) (ds : List Bits) (p : Bits) (x : List Byte) : Prop where
  unfaulted : s.faultCode = .none
  room : s.Fits ds.flatten.length
  chunks : ∀ d ∈ ds, d.length = s.msgBits.val
  boundary : s.msgBits.val ∣ s.buf.length
  framed : s.buf ++ ds.flatten = frame p
  noFalseEnd : NoFalseEnd s.msgBits.val (frame p)
  decodes : completion s.lcTable (frame p) = .ok x

section Awaits

variable {s : State} {d : Bits} {ds : List Bits} {p : Bits} {x : List Byte}

/-- With the next chunk in the buffer the others are the rest of the frame. -/
theorem State.Awaits.append (h : s.Awaits (d :: ds) p x) : (s.append d).Awaits ds p x where
  unfaulted := h.unfaulted
  room := (State.Fits.append h.room).2
  chunks := fun c hc => h.chunks c (List.mem_cons_of_mem d hc)
  boundary := by
    rw [State.append_buf, List.length_append, h.chunks d List.mem_cons_self]
    exact Nat.dvd_add h.boundary dvd_rfl
  framed := by
    rw [State.append_buf, List.append_assoc, ← List.flatten_cons, h.framed]
  noFalseEnd := h.noFalseEnd
  decodes := h.decodes

theorem State.Awaits.fits_head (h : s.Awaits (d :: ds) p x) : s.Fits d.length := (State.Fits.append h.room).1

/-- Before the last chunk a push answers Done and the rest of the frame is awaited (46_pipeline.md R174). -/
theorem State.Awaits.push (h : s.Awaits (d :: ds) p x) (hds : ds ≠ []) :
    (s.push d).Awaits ds p x ∧ (s.push d).result = .done .nothing ∧ (s.push d).msgOut = none := by
  obtain ⟨hfault, hroom, hchunks, hboundary, hframed, hopen, hdecodes⟩ := h.append
  have hpos : 0 < ds.flatten.length := by
    rw [flatten_length ds hchunks]
    exact Nat.mul_pos s.msgBits.pos (List.length_pos_of_ne_nil hds)
  have hpush := State.push_of_open h.unfaulted (h.chunks d List.mem_cons_self) h.fits_head hframed
    (hopen.not_ended hframed hboundary hpos)
  obtain hs | hs := hpush
  all_goals rw [hs]; exact ⟨⟨hfault, hroom, hchunks, hboundary, hframed, hopen, hdecodes⟩, rfl, rfl⟩

/-- The last chunk completes the frame (45_reassembler.md R155). -/
theorem State.Awaits.push_last (h : s.Awaits [d] p x) : s.push d = s.emit x := by
  have hframe : s.buf ++ d = frame p := by
    simpa using h.framed
  rw [State.push_of_frame h.unfaulted (h.chunks d List.mem_cons_self) h.fits_head hframe, ← completion_frame, h.decodes]
  rfl

end Awaits

/-! ## All chunks of a frame -/

/-- Every state but the last answers Done without a message; the last emits `x` and is ready again (46_pipeline.md R174). -/
def EmitsAtLast (x : List Byte) (states : List State) : Prop :=
  ∃ (before : List State) (final : State), states = before ++ [final] ∧
    (∀ u ∈ before, u.result = .done .nothing ∧ u.msgOut = none) ∧
    final.result = .done (.text x) ∧ final.msgOut = some x ∧ final.Ready

theorem EmitsAtLast.emit {s : State} (hfault : s.faultCode = .none) (x : List Byte) : EmitsAtLast x [s.emit x] :=
  ⟨[], s.emit x, rfl, fun _ hu => absurd hu List.not_mem_nil, rfl, rfl, rfl, rfl, hfault⟩

theorem EmitsAtLast.cons {x : List Byte} {states : List State} {u : State} (hu : u.result = .done .nothing ∧ u.msgOut = none)
    (h : EmitsAtLast x states) : EmitsAtLast x (u :: states) := by
  obtain ⟨before, final, rfl, hbefore, hfinal⟩ := h
  exact ⟨u :: before, final, rfl, List.forall_mem_cons.mpr ⟨hu, hbefore⟩, hfinal⟩

/-- Pushing the rest of a frame emits its text at the last chunk and not before (46_pipeline.md R174). -/
theorem State.Awaits.emitsAtLast {s : State} {ds : List Bits} {p : Bits} {x : List Byte} (h : s.Awaits ds p x) (hds : ds ≠ []) :
    EmitsAtLast x (s.pushAll ds) := by
  induction ds generalizing s with
  | nil => exact absurd rfl hds
  | cons d ds ih =>
    by_cases hlast : ds = []
    · subst hlast
      rw [State.pushAll, State.pushAll, h.push_last]
      exact .emit h.unfaulted x
    · obtain ⟨hnext, hdone⟩ := h.push hlast
      exact .cons hdone (ih hnext hlast)

/-- A ready receiver awaits the chunks of the sender's whole frame (46_pipeline.md R174). -/
theorem IsPayload.awaits {s : State} {t : List Byte} {l : List (Fin 16)} (h : IsPayload s.msgBits.val t l) (hready : s.Ready)
    (hopen : NoFalseEnd s.msgBits.val (frame (payload s.lcTable l)))
    (hfits : s.Fits (frame (payload s.lcTable l)).length) :
    s.Awaits (groups s.msgBits.val (frame (payload s.lcTable l))) (payload s.lcTable l)
      (t.filter (· ≠ 0#8)) := by
  obtain ⟨-, hbuf, hfault⟩ := hready
  have hflatten := flatten_groups s.msgBits.pos _ (h.frame_length_mod s.lcTable)
  exact {
    unfaulted := hfault
    room := by rwa [hflatten]
    chunks := fun _ => length_of_mem_groups
    boundary := by simp [hbuf]
    framed := by rw [hflatten, hbuf, List.nil_append]
    noFalseEnd := hopen
    decodes := h.completion_eq s.lcTable }

end Sys2Proof.Machine
end

section
/-! SUPPORT. The obligations about the pipelines and the reset (46_pipeline.md). -/

namespace Sys2Proof.Proofs

open Sys2Proof.Machine

/-- Settles O12: every other instruction keeps MSG_BITS, and with a fault recorded writes the outputs alone. -/
theorem sysResetRestartsTheCore : Obligations.SysResetRestartsTheCore := by
  refine fun s => ⟨rfl, rfl, fun _ => rfl, fun i t h => ⟨fun hfault hclear => ?_, fun hm => ?_⟩⟩
  · by_contra hreset
    obtain ⟨o, ho⟩ := exec_of_faulted hfault hreset
    cases h.symm.trans ho
    exact hfault hclear
  · obtain ⟨hreset, -⟩ | ⟨u, hu, hsame⟩ := exec_restart_or_sameParams i s
    · exact hreset
    · cases h.symm.trans hu
      exact absurd hsame.msgBits hm

/-- Settles O52: the two cases of the length; whole pieces join to the string. -/
theorem chunkCutsWholePieces : Obligations.ChunkCutsWholePieces := by
  refine fun f s => ⟨fun h => ?_, fun h => ⟨groups s.msgBits.val f, ?_, ?_, fun _ => length_of_mem_groups⟩⟩
  · rw [exec_txChunk, chunk_of_length_mod_ne h]
    rfl
  · rw [exec_txChunk, chunk_of_length_mod_eq h]
    rfl
  · exact flatten_groups s.msgBits.pos f h

/-- Settles O53: the padded text is whole groups and its frame whole chunks, so no stage faults. -/
theorem sendTransmitsTheEncodedFrame : Obligations.SendTransmitsTheEncodedFrame := by
  intro t s
  obtain ⟨l, hl⟩ := exists_isPayload s.msgBits.pos t
  refine ⟨_, _, groups s.msgBits.val (frame (payload s.lcTable l)), rfl, hl.lineEncode_eq s.lcTable,
    flatten_groups s.msgBits.pos _ (hl.frame_length_mod s.lcTable), fun _ => length_of_mem_groups, ?_, hl.exec_txSend_eq⟩
  have hpadded := congrArg List.length hl.padded
  rw [padFront, List.length_append, zeros_length, toBinary_length, length_flatMap_of_width groupBits_length] at hpadded
  rw [groups_length, frame_length, payload_length]
  congr 1
  omega

/-- Settles O54: ECC.COR keeps the length of the block, so ECC.EXT takes its answer. -/
theorem receiveBlockPushesTheCorrectedData : Obligations.ReceiveBlockPushesTheCorrectedData := by
  refine fun x s hx => ⟨fun hfault => exec_rxBlock_of_faulted hfault x, fun hfault => ?_⟩
  have hc : (eccCorrect s.msgBits.val x).length = blockBits s.msgBits.val := (eccCorrect_length _ x).trans hx
  exact ⟨_, _, _, _, _, exec_eccCor_of_length hx, rfl, exec_eccExt_of_length hc, rfl, exec_rsmPush _ s,
    exec_rxBlock_of_length hfault hx⟩

/-- Settles O55: the block is a push of the sent chunk, which in InFrame without an end only accumulates. -/
theorem receiveBlockAppendsTheSentChunk : Obligations.ReceiveBlockAppendsTheSentChunk := by
  intro d y s hfault hlength hfits hflip hfsm hopen
  obtain ⟨-, -, hinFrame⟩ := pushAccumulates s d hfault hlength hfits
  rw [exec_rxBlock_of_atMostOneFlip hlength hflip, ← exec_rsmPush]
  exact hinFrame hfsm hopen

/-- Settles O57: the blocks are pushes of the chunks of the frame, and the completion path reads that frame back. -/
theorem sentTextIsEmittedByTheReceiver : Obligations.SentTextIsEmittedByTheReceiver := by
  intro sender sent s t f ys hm htable hready hsend hflips hf hopen hfits
  obtain ⟨l, hl⟩ := exists_isPayload s.msgBits.pos t
  cases (hl.sendFrame_eq s.lcTable).symm.trans hf
  have hsender : IsPayload sender.msgBits.val t l := hm ▸ hl
  cases hsender.exec_txSend_eq.symm.trans hsend
  rw [State.transmit_txBlocks, hm, htable] at hflips ⊢
  have hawaits := hl.awaits hready hopen hfits
  have hreceive := receive_eq_pushAll rfl hawaits.chunks hflips
  obtain ⟨before, final, hstates, hemits⟩ := hawaits.emitsAtLast (hl.groups_frame_ne_nil s.msgBits.pos s.lcTable)
  refine ⟨before, final, hreceive.trans hstates, ?_, hemits⟩
  have hcount := congrArg List.length hstates
  simpa using hcount.symm

end Sys2Proof.Proofs
end

section
/-! SUPPORT. Faults (60_exceptions.md): how every operation that answers a fault ends, what a recorded fault keeps back, and which step
leaves a message at MSG_OUT. -/

namespace Sys2Proof.Machine

/-! ## Faults with a code and a unit -/

/-- The fault has a code and a unit, as every fault that is raised has (60_exceptions.md R180, R181). -/
abbrev Raised.Named (f : Raised) : Prop := f.code ≠ .none ∧ f.unit ≠ .none

theorem fromBinary_error_named {b : Bits} {f : Raised} (h : fromBinary b = .error f) : f.Named := by
  rw [fromBinary_error h]
  decide

theorem deframe_error_named {b : Bits} {f : Raised} (h : deframe b = .error f) : f.Named := by
  rw [deframe_error h]
  decide

theorem lineDecode_error_named {t : LcTable} {b : Bits} {f : Raised} (h : lineDecode t b = .error f) : f.Named := by
  obtain rfl | rfl := lineDecode_error h
  · decide
  · decide

theorem lineEncode_error_named {t : LcTable} {b : Bits} {f : Raised} (h : lineEncode t b = .error f) : f.Named := by
  unfold lineEncode at h
  split at h
  · cases h; decide
  · cases h

theorem chunk_error_named {m : Nat} {b : Bits} {f : Raised} (h : chunk m b = .error f) : f.Named := by
  unfold chunk at h
  split at h
  · cases h; decide
  · cases h

/-! ## The stateless operations -/

/-- Every way a stateless operation can end from `s` (00_scope.md R16, 60_exceptions.md R185 (a)). -/
inductive State.StatelessEnd (s : State) : Host.Outcome State Fault Refusal → Prop
  | returns (v : Value) : s.StatelessEnd (.next (s.returns v))
  | refuse : s.StatelessEnd (.next s.refuse)
  | transmit (bs : List Bits) : s.StatelessEnd (.next (s.transmit bs))
  | raise (f : Raised) (hf : f.Named) : s.StatelessEnd (.next (s.raiseStateless f))

namespace State.StatelessEnd

variable {s : State}

theorem guard (c : Prop) [Decidable c] (v : Value) :
    s.StatelessEnd (if c then .next s.refuse else .next (s.returns v)) := by
  split
  · exact .refuse
  · exact .returns v

theorem answer {α : Type} {r : Except Raised α} (g : α → Value) (hr : ∀ {f}, r = .error f → f.Named) :
    s.StatelessEnd (.next (s.answer (r.map g))) := by
  cases r with
  | ok a => exact .returns (g a)
  | error f => exact .raise f (hr rfl)

theorem lookUp (w : Symbol) : s.StatelessEnd (.next (s.lookUp w)) := by
  rw [State.lookUp_eq_answer]
  exact .answer _ lineDecode_error_named

theorem txSend (t : List Byte) : s.StatelessEnd (exec (.txSend t) s) := by
  obtain ⟨l, hl⟩ := exists_isPayload s.msgBits.pos t
  rw [hl.exec_txSend_eq]
  exact .transmit _

/-- The one end with a fault latches nothing (60_exceptions.md R185 (a)). -/
theorem eq_raiseStateless {t : State} {c : FaultCode} {u : FaultUnit} (h : s.StatelessEnd (.next t))
    (ht : t.result = .fault c u) : Raised.Named ⟨c, u⟩ ∧ t = s.raiseStateless ⟨c, u⟩ := by
  cases h with
  | returns v => cases ht
  | refuse => cases ht
  | transmit bs => cases ht
  | raise f hf => cases ht; exact ⟨hf, rfl⟩

end State.StatelessEnd

/-- Every instruction but RSM.PUSH, RX.BLOCK and SYS.RESET ends as a stateless operation (10_state.md R31). -/
theorem exec_statelessEnd {i : Instr} (hpush : ∀ d, i ≠ .rsmPush d) (hblock : ∀ x, i ≠ .rxBlock x) (hreset : i ≠ .sysReset)
    (s : State) : s.StatelessEnd (exec i s) := by
  cases i with
  | rsmPush d => exact absurd rfl (hpush d)
  | rxBlock x => exact absurd rfl (hblock x)
  | sysReset => exact absurd rfl hreset
  | bcTobin _ | padApply _ _ | frFrame _ => exact .returns _
  | blockCfg1 _ _ | blockCfg4 _ _ | blockCfg5 _ _ | blockCfg10 _ _ | blockCfg11 _ _ | blockCfg20 _ _ => exact .returns _
  | padMin _ _ | eccRed _ | eccEnc _ | eccCor _ | eccExt _ => exact .guard _ _
  | bcFrombin b => exact .answer _ fromBinary_error_named
  | lcEnc b => exact .answer _ lineEncode_error_named
  | lcDec b => exact .answer _ lineDecode_error_named
  | frDeframe b => exact .answer _ deframe_error_named
  | txChunk b => exact .answer _ chunk_error_named
  | txSend t => exact .txSend t
  | _ => exact .lookUp _

/-! ## The receive path -/

/-- The two operations of the receive path, which alone latch a fault (60_exceptions.md R185 (b)). -/
def IsReceive (i : Instr) : Prop := (∃ d, i = .rsmPush d) ∨ ∃ x, i = .rxBlock x

theorem not_isReceive_iff {i : Instr} : ¬ IsReceive i ↔ (∀ d, i ≠ .rsmPush d) ∧ ∀ x, i ≠ .rxBlock x := by
  rw [IsReceive, not_or, not_exists, not_exists]

/-- A receive operation is refused or pushes a chunk (45_reassembler.md R153, 46_pipeline.md R173). -/
theorem IsReceive.exec_cases {i : Instr} (hi : IsReceive i) (s : State) :
    exec i s = .next s.refuse ∨ ∃ d, exec i s = .next (s.push d) := by
  obtain ⟨d, rfl⟩ | ⟨x, rfl⟩ := hi
  · exact .inr ⟨d, exec_rsmPush d s⟩
  · obtain ⟨-, h⟩ | ⟨-, -, h⟩ := execRxBlock_cases s x
    · exact .inl h
    · exact .inr ⟨_, h⟩

/-- `t` has just latched the fault, on top of whatever the operation wrote before (60_exceptions.md R185 (b)). -/
def State.Latched (t : State) (f : Raised) : Prop := f.Named ∧ ∃ s : State, t = s.raiseLatched f

section LatchedByPush

variable {c : FaultCode} {u : FaultUnit}

theorem State.endTest_latched {s : State} (h : s.endTest.result = .fault c u) : s.endTest.Latched ⟨c, u⟩ := by
  obtain ⟨-, hs⟩ | ⟨-, ⟨t, -, hs⟩ | ⟨f, hf, hs⟩⟩ := s.endTest_cases
  all_goals rw [hs] at h ⊢; cases h
  exact ⟨completion_error hf, s, rfl⟩

theorem State.startTest_latched {s : State} (h : s.startTest.result = .fault c u) : s.startTest.Latched ⟨c, u⟩ := by
  obtain ⟨-, -, -, hs⟩ | ⟨-, -, -, hs⟩ | ⟨-, hs⟩ := s.startTest_cases
  all_goals rw [hs] at h ⊢
  · cases h; exact ⟨by decide, s, rfl⟩
  · exact State.endTest_latched h
  · exact State.endTest_latched h

/-- A push that answers a fault has latched it. -/
theorem State.push_latched {s : State} {d : Bits} (h : (s.push d).result = .fault c u) : (s.push d).Latched ⟨c, u⟩ := by
  obtain ⟨-, hs⟩ | ⟨-, -, -, hs⟩ | ⟨-, -, -, hs⟩ := s.push_cases d
  all_goals rw [hs] at h ⊢
  · cases h
  · cases h; exact ⟨by decide, s, rfl⟩
  · exact State.startTest_latched h

end LatchedByPush

/-! ## Fault entry -/

/-- Fault entry on the two paths (60_exceptions.md R185): latched by a receive operation, and by no other. -/
theorem exec_fault {i : Instr} {s t : State} {c : FaultCode} {u : FaultUnit} (h : exec i s = .next t)
    (ht : t.result = .fault c u) :
    (IsReceive i ∧ t.Latched ⟨c, u⟩) ∨ (¬ IsReceive i ∧ Raised.Named ⟨c, u⟩ ∧ t = s.raiseStateless ⟨c, u⟩) := by
  by_cases hi : IsReceive i
  · obtain hs | ⟨d, hs⟩ := hi.exec_cases s
    all_goals cases h.symm.trans hs
    · cases ht
    · exact .inl ⟨hi, State.push_latched ht⟩
  · obtain ⟨hpush, hblock⟩ := not_isReceive_iff.mp hi
    have hreset : i ≠ .sysReset := by
      rintro rfl
      cases h
      cases ht
    have hend := exec_statelessEnd hpush hblock hreset s
    rw [h] at hend
    exact .inr ⟨hi, hend.eq_raiseStateless ht⟩

/-! ## While a fault is recorded -/

/-- A step from a recorded fault keeps it, unless the host presents a reset, which restarts the core (60_exceptions.md R188). -/
theorem step_of_faulted {s t : State} (hfault : s.faultCode ≠ .none) (h : step s = .next t) :
    (t.faultCode = s.faultCode ∧ t.faultUnit = s.faultUnit) ∨ (s.PresentsReset ∧ ∃ s' : State, t = s'.restart) := by
  obtain ⟨-, hs⟩ | ⟨p, rest, i, hi, hd, hs⟩ | ⟨p, rest, e, -, -, hs⟩ | ⟨rest, hi, hs⟩ | ⟨m, rest, -, hs⟩ := step_cases s
  all_goals rw [hs] at h
  · cases h; exact .inl ⟨rfl, rfl⟩
  · by_cases hreset : i = .sysReset
    · subst hreset
      cases h
      exact .inr ⟨⟨rest, .inr ⟨p, hi, hd⟩⟩, _, rfl⟩
    · obtain ⟨o, ho⟩ := exec_of_faulted (s := s.withInput rest) hfault hreset
      cases h.symm.trans ho
      exact .inl ⟨rfl, rfl⟩
  · cases h; exact .inl ⟨rfl, rfl⟩
  · cases h; exact .inr ⟨⟨rest, .inl hi⟩, _, rfl⟩
  · cases h; exact .inl ⟨rfl, rfl⟩

/-! ## The level indications -/

/-- Only a step that performs an instruction leaves a message at MSG_OUT (60_exceptions.md R195). -/
theorem step_of_msgOut {s t : State} {x : List Byte} (h : step s = .next t) (hx : t.msgOut = some x) :
    ∃ p rest i, s.input = .present p :: rest ∧ decode p = .ok i ∧ exec i (s.withInput rest) = .next t := by
  obtain ⟨-, hs⟩ | ⟨p, rest, i, hi, hd, hs⟩ | ⟨p, rest, e, -, -, hs⟩ | ⟨rest, -, hs⟩ | ⟨m, rest, -, hs⟩ := step_cases s
  all_goals rw [hs] at h
  · cases h; cases hx
  · exact ⟨p, rest, i, hi, hd, h⟩
  · cases h; cases hx
  · cases h; cases hx
  · cases h; cases hx

theorem FaultCode.code_eq_zero_iff (c : FaultCode) : c.code = 0#3 ↔ c = .none := by
  cases c <;> decide

theorem State.faulted_iff (s : State) : s.faulted = true ↔ s.faultCode ≠ .none := by
  simp [State.faulted]

end Sys2Proof.Machine
end

section
/-! SUPPORT. The obligations about the faults and the level indications (60_exceptions.md). -/

namespace Sys2Proof.Proofs

open Sys2Proof.Machine

/-- Settles O49: a step from a recorded fault keeps it or restarts the core. -/
theorem recordedFaultStaysUntilReset : Obligations.RecordedFaultStaysUntilReset := by
  intro s t hfault h
  obtain hkept | ⟨hreset, s', rfl⟩ := step_of_faulted hfault h
  · exact .inl hkept
  · exact .inr ⟨rfl, rfl, rfl, rfl, rfl, hreset⟩

/-- Settles O50, from the two paths of fault entry. -/
theorem faultsAreLatchedOnTheReceivePathOnly : Obligations.FaultsAreLatchedOnTheReceivePathOnly := by
  intro i s t c u h ht
  obtain ⟨hi, ⟨hcode, hunit⟩, s', rfl⟩ | ⟨hi, ⟨hcode, hunit⟩, rfl⟩ := exec_fault h ht
  · exact ⟨hcode, hunit, rfl, rfl, fun _ => ⟨rfl, rfl⟩, fun hpush hblock => absurd hi (not_isReceive_iff.mpr ⟨hpush, hblock⟩)⟩
  · exact ⟨hcode, hunit, rfl, rfl, fun hreceive => absurd hreceive hi, fun _ _ => rfl⟩

/-- Settles O58: a message at MSG_OUT is there by an instruction of this step, which completed a frame (O51). -/
theorem msgValidOnlyForTheEmittingOperation : Obligations.MsgValidOnlyForTheEmittingOperation := by
  refine ⟨fun s t h => ⟨fun hvalid => ?_, fun ⟨p, rest, i, x, _, _, _, _, _, hx⟩ => ?_⟩, fun s => ?_⟩
  · obtain ⟨x, hx⟩ := Option.isSome_iff_exists.mp hvalid
    obtain ⟨p, rest, i, hinput, hdecode, hexec⟩ := step_of_msgOut h hx
    obtain ⟨-, hresult, -, d, -, -, hpushes, -⟩ := emissionOnlyByACompletedFrame i _ t x hexec hx
    exact ⟨p, rest, i, x, hinput, hdecode, hexec, hpushes.imp (⟨d, ·⟩) (fun ⟨b, hb, _⟩ => ⟨b, hb⟩), hresult, hx⟩
  · exact Option.isSome_iff_exists.mpr ⟨x, hx⟩
  · rw [s.faulted_iff, ne_eq, ne_eq, s.faultCode.code_eq_zero_iff]

/-- Settles O41: the refusals of the two receive operations; the outputs of the others are a function of MSG_BITS and the table. -/
theorem receivePathRefusedWhileFaulted : Obligations.ReceivePathRefusedWhileFaulted := by
  refine fun s hfault => ⟨fun d => ?_, exec_rxBlock_of_faulted hfault, fun i hpush hblock t h => ?_⟩
  · rw [exec_rsmPush, State.push_of_faulted hfault]
    rfl
  by_cases hreset : i = .sysReset
  · subst hreset
    cases h
    exact ⟨_, rfl, rfl, rfl, rfl⟩
  · obtain ⟨f, hf⟩ := hasPureOutput_of_ne hpush hblock hreset
    cases h.symm.trans (hf _)
    exact ⟨_, hf s, rfl, rfl, rfl⟩

end Sys2Proof.Proofs
end

section
/-! SUPPORT. Every operation completes (70_reset_and_hazards.md R225), also on an operand its type forbids, which it refuses
(20_memory.md R47, R48). -/

namespace Sys2Proof.Machine

/-! ## Operands the type forbids -/

theorem State.push_of_length_ne {s : State} {d : Bits} (h : d.length ≠ s.msgBits.val) : s.push d = s.refuse := by
  obtain ⟨-, hs⟩ | ⟨-, hlength, -⟩ | ⟨-, hlength, -⟩ := s.push_cases d
  · exact hs
  · exact absurd hlength h
  · exact absurd hlength h

theorem exec_rxBlock_of_length_ne {s : State} {x : Bits} (h : x.length ≠ blockBits s.msgBits.val) :
    exec (.rxBlock x) s = .next s.refuse := by
  obtain ⟨-, hs⟩ | ⟨-, hlength, -⟩ := execRxBlock_cases s x
  · exact hs
  · exact absurd hlength h

/-- Seven operations have operands that their type can forbid, and each of them tests for it first (log 10). -/
theorem exec_of_not_wellFormed {i : Instr} {s : State} (h : i.wellFormed s.msgBits = false) : exec i s = .next s.refuse := by
  cases i with
  | padMin len k => exact if_pos (Nat.eq_zero_of_not_pos (of_decide_eq_false h))
  | eccRed k => exact if_pos (Nat.eq_zero_of_not_pos (of_decide_eq_false h))
  | eccEnc d => exact if_pos (beq_eq_false_iff_ne.mp h)
  | eccCor b => exact if_pos (beq_eq_false_iff_ne.mp h)
  | eccExt b => exact if_pos (beq_eq_false_iff_ne.mp h)
  | rsmPush d => rw [exec_rsmPush, State.push_of_length_ne (beq_eq_false_iff_ne.mp h)]
  | rxBlock x => exact exec_rxBlock_of_length_ne (beq_eq_false_iff_ne.mp h)
  | _ => cases h

/-! ## Every operation completes -/

/-- A restart, a push and a write of the outputs each have a next state (60_exceptions.md R185). -/
theorem exec_completes (i : Instr) (s : State) : ∃ t, exec i s = .next t := by
  obtain h | ⟨d, -, h⟩ | ⟨o, h⟩ := exec_cases i s
  · exact ⟨_, h⟩
  · exact ⟨_, h⟩
  · exact ⟨_, h⟩

theorem step_completes (s : State) : ∃ t, step s = .next t := by
  obtain ⟨-, h⟩ | ⟨p, rest, i, -, -, h⟩ | ⟨p, rest, e, -, -, h⟩ | ⟨rest, -, h⟩ | ⟨m, rest, -, h⟩ := step_cases s
  · exact ⟨_, h⟩
  · rw [h]
    exact exec_completes i _
  · exact ⟨_, h⟩
  · exact ⟨_, h⟩
  · exact ⟨_, h⟩

/-- A run of one step more is the step and then the rest of the run. -/
theorem run_succ_of_step {s t : State} (h : step s = .next t) (k : Nat) : core.run (k + 1) s = core.run k t := by
  have hcore : core.step s = .next t := h
  simp only [Host.Core.run, hcore]

end Sys2Proof.Machine
end

section
/-! SUPPORT. The obligations about the reset, the operands and the completion of every operation (70_reset_and_hazards.md,
93_implementation_defined.md). -/

namespace Sys2Proof.Proofs

open Sys2Proof.Machine

/-- Settles O5, by induction on the number of steps: each of them has a next state, whatever the state before. -/
theorem everyRunIsSafe : Obligations.EveryRunIsSafe := by
  intro s k
  induction k generalizing s with
  | zero => exact ⟨s, rfl⟩
  | succ k ih =>
    obtain ⟨t, ht⟩ := step_completes s
    rw [run_succ_of_step ht]
    exact ih t

/-- Settles O2: the RESET input is performed as SYS.RESET, and the selector 0xF0 decodes to it. -/
theorem resetInputAndSelectorAgree : Obligations.ResetInputAndSelectorAgree :=
  fun s rest _ => ⟨step_of_input_cons, fun h => stepRunsDecodedInstruction s _ rest .sysReset h rfl⟩

/-- Settles O17: the refusal writes the outputs alone. -/
theorem illTypedOperandRefused : Obligations.IllTypedOperandRefused :=
  fun _ _ => exec_of_not_wellFormed

end Sys2Proof.Proofs
end
